-- ==== Sys2Proof/Word.lean ====
section
/-! DEFINITION. The word types of the block (00_scope.md R8, R9): every value is an unsigned bit vector. -/

namespace Sys2Proof

/-- One character, one byte (CHAR_UNIT, R8). -/
abbrev Byte := BitVec 8

/-- An interface register's width, and the command word's (REG_WIDTH R8, R80). -/
abbrev Word := BitVec 32

/-- The Wiegand64 code's width (CODE64_WIDTH, R8). -/
abbrev DWord := BitVec 64

/-- A Wiegand26 payload (PAYLOAD_WIDTH, R8). -/
abbrev Payload := BitVec 24

/-- A Wiegand26 code (CODE26_WIDTH, R8). -/
abbrev Code26 := BitVec 26

/-- A register number (REGNUM_WIDTH, R8, R61). -/
abbrev RegNum := BitVec 10

/-- The word with bit `k` equal to `b` and zeros elsewhere: `b << k` (R10). -/
def bitAt (k : Nat) (b : Bool) : Word := (BitVec.ofBool b).setWidth 32 <<< k

end Sys2Proof
end

