-- ==== Sys2Proof/Syntax.lean ====
section
/-! DEFINITION. The commands of the opcode map (30_encoding.md R88), one constructor per row of spec/opcode_table.json. -/

namespace Sys2Proof

/-- A decoded command (R95). Operands are implicit in the opcode; the only fields are PRESENT and LEN (class S) and
HASH_OK (class H) (R87, R92). -/
inductive Instr where
  /-- CHCLS: classify and uppercase one byte (R116) -/
  | chcls
  /-- CH6: 6-bit code of one byte (R208) -/
  | ch6
  /-- SAN26: sanitize for Wiegand26 (R117) -/
  | san26 (present : Bool) (len : Nat)
  /-- SAN64: sanitize for Wiegand64 (R118) -/
  | san64 (present : Bool) (len : Nat)
  /-- W26ENC: digest to 26-bit code (R147) -/
  | w26enc (hashOk : Bool)
  /-- PARGEN: payload to 26-bit code with parity (R148) -/
  | pargen
  /-- PARCHK: check both parity fields (R149) -/
  | parchk
  /-- W26DFC: decode the facility code (R175) -/
  | w26dfc (present : Bool) (len : Nat)
  /-- W26DID: decode the ID number (R176) -/
  | w26did (present : Bool) (len : Nat)
  /-- W26DPL: decode the 24-bit payload (R177) -/
  | w26dpl (present : Bool) (len : Nat)
  /-- W26DCC: decode the concatenation (R178) -/
  | w26dcc (present : Bool) (len : Nat)
  /-- W64ENC: plate to 64-bit code (R209) -/
  | w64enc (present : Bool) (len : Nat)
deriving DecidableEq, Repr, Inhabited

end Sys2Proof
end

