-- ==== Sys2Proof/WellFormed.lean ====
section
/-! DEFINITION. Which terms of Instr are commands: LEN is an 8-bit field (30_encoding.md R81, R83). -/

namespace Sys2Proof

/-- LEN lies in 0..255 (R81, R93). -/
def lenOk (len : Nat) : Bool := decide (len < 256)

/-- Every field of the command fits its field of the command word. -/
def Instr.wellFormed : Instr → Bool
  | .chcls => true
  | .ch6 => true
  | .san26 _ len => lenOk len
  | .san64 _ len => lenOk len
  | .w26enc _ => true
  | .pargen => true
  | .parchk => true
  | .w26dfc _ len => lenOk len
  | .w26did _ len => lenOk len
  | .w26dpl _ len => lenOk len
  | .w26dcc _ len => lenOk len
  | .w64enc _ len => lenOk len

end Sys2Proof
end

