-- ==== Sys2Proof/Decode.lean ====
section
/-! DEFINITION. The decoding of a command word, total on every 32-bit value, the encoder, and the opcode map with its
masks (30_encoding.md R81, R86 to R90, R93, R95). -/

namespace Sys2Proof

/-- Why a command word is illegal (R89). -/
inductive IllegalWord where
  /-- bits 31:18 are not all zero (R86) -/
  | reservedBits
  /-- OP is not in the opcode map (R82, R90) -/
  | unassignedOp
  /-- a field the operation's class does not use is nonzero (R87) -/
  | unusedField
deriving DecidableEq, Repr

/-- OP, bits 7:0 (R81). -/
def opField (w : Word) : Byte := w.extractLsb' 0 8

/-- LEN, bits 15:8, as a count (R81, R83: never scaled or sign-extended). -/
def lenField (w : Word) : Nat := (w.extractLsb' 8 8).toNat

/-- PRESENT, bit 16 (R81, R84). -/
def presentField (w : Word) : Bool := w.getLsbD 16

/-- HASH_OK, bit 17 (R81, R85). -/
def hashOkField (w : Word) : Bool := w.getLsbD 17

/-- The reserved bits 31:18 (R86). -/
def reservedField (w : Word) : BitVec 14 := w.extractLsb' 18 14

/-- Class N (R87): LEN, PRESENT and HASH_OK, bits 17:8, must be zero. -/
def decodeClassN (w : Word) (i : Instr) : Except IllegalWord Instr :=
  if w.extractLsb' 8 10 = 0 then .ok i else .error .unusedField

/-- Class S (R87): HASH_OK, bit 17, must be zero. -/
def decodeClassS (w : Word) (i : Bool → Nat → Instr) : Except IllegalWord Instr :=
  if hashOkField w then .error .unusedField else .ok (i (presentField w) (lenField w))

/-- Class H (R87): LEN and PRESENT, bits 16:8, must be zero. -/
def decodeClassH (w : Word) (i : Bool → Instr) : Except IllegalWord Instr :=
  if w.extractLsb' 8 9 = 0 then .ok (i (hashOkField w)) else .error .unusedField

/-- The decoding of R95. -/
def decode (w : Word) : Except IllegalWord Instr :=
  if reservedField w ≠ 0 then .error .reservedBits
  else if opField w = 0x01 then decodeClassN w .chcls
  else if opField w = 0x02 then decodeClassN w .ch6
  else if opField w = 0x10 then decodeClassS w .san26
  else if opField w = 0x11 then decodeClassS w .san64
  else if opField w = 0x20 then decodeClassH w .w26enc
  else if opField w = 0x21 then decodeClassN w .pargen
  else if opField w = 0x22 then decodeClassN w .parchk
  else if opField w = 0x30 then decodeClassS w .w26dfc
  else if opField w = 0x31 then decodeClassS w .w26did
  else if opField w = 0x32 then decodeClassS w .w26dpl
  else if opField w = 0x33 then decodeClassS w .w26dcc
  else if opField w = 0x40 then decodeClassS w .w64enc
  else .error .unassignedOp

/-- The command word with the given fields (R81), bits 31:18 zero. -/
def commandWord (op : Byte) (len : Nat) (present hashOk : Bool) : Word :=
  op.setWidth 32 ||| (BitVec.ofNat 8 len).setWidth 32 <<< 8 ||| bitAt 16 present ||| bitAt 17 hashOk

/-- The word of a command (R93). -/
def encode : Instr → Word
  | .chcls => commandWord 0x01 0 false false
  | .ch6 => commandWord 0x02 0 false false
  | .san26 present len => commandWord 0x10 len present false
  | .san64 present len => commandWord 0x11 len present false
  | .w26enc hashOk => commandWord 0x20 0 false hashOk
  | .pargen => commandWord 0x21 0 false false
  | .parchk => commandWord 0x22 0 false false
  | .w26dfc present len => commandWord 0x30 len present false
  | .w26did present len => commandWord 0x31 len present false
  | .w26dpl present len => commandWord 0x32 len present false
  | .w26dcc present len => commandWord 0x33 len present false
  | .w64enc present len => commandWord 0x40 len present false

/-- The match word of the command's row (R88): its word with all free fields zero. -/
def Instr.rowMatch : Instr → Word
  | .chcls => 0x00000001
  | .ch6 => 0x00000002
  | .san26 _ _ => 0x00000010
  | .san64 _ _ => 0x00000011
  | .w26enc _ => 0x00000020
  | .pargen => 0x00000021
  | .parchk => 0x00000022
  | .w26dfc _ _ => 0x00000030
  | .w26did _ _ => 0x00000031
  | .w26dpl _ _ => 0x00000032
  | .w26dcc _ _ => 0x00000033
  | .w64enc _ _ => 0x00000040

/-- The mask of the command's class (R87, R88). -/
def Instr.rowMask : Instr → Word
  | .chcls => 0xFFFFFFFF
  | .ch6 => 0xFFFFFFFF
  | .san26 _ _ => 0xFFFE00FF
  | .san64 _ _ => 0xFFFE00FF
  | .w26enc _ => 0xFFFDFFFF
  | .pargen => 0xFFFFFFFF
  | .parchk => 0xFFFFFFFF
  | .w26dfc _ _ => 0xFFFE00FF
  | .w26did _ _ => 0xFFFE00FF
  | .w26dpl _ _ => 0xFFFE00FF
  | .w26dcc _ _ => 0xFFFE00FF
  | .w64enc _ _ => 0xFFFE00FF

/-- The instruction the decoder reads from a row's word: a command is one 32-bit word (R80), so the bits above `nbits`
are zero and the word is the value itself. -/
def decodeTableWord (nbits w : Nat) : Option Instr :=
  match decode (BitVec.ofNat 32 (w % 2 ^ nbits)) with
  | .ok i => some i
  | .error _ => none

end Sys2Proof
end

