-- ==== Sys2Proof/Machine/Types.lean ====
section
/-! DEFINITION. The plain data the block's state is made of: marked registers, the operand and result registers,
a command in flight, the outcomes of commands and the protocol faults (10_state.md, 60_exceptions.md). -/

namespace Sys2Proof.Machine

/-- A register with a mark: *written* for an operand register (R35), *valid* for a result register (R37).
`val` is never observed while `mark` is false (log entries 5, 6, 7, 11). -/
structure Marked (w : Nat) where
  val  : BitVec w
  mark : Bool
deriving DecidableEq, Repr, Inhabited

/-- The operand registers of R22, each with its written mark (R27 to R31, R35). -/
structure Operands where
  /-- CHAR_IN (R27) -/
  charIn : Marked 8
  /-- PAY_IN (R28) -/
  payIn  : Marked 24
  /-- CODE_IN (R29) -/
  codeIn : Marked 26
  /-- DIG[0..19] (R30) -/
  dig    : Vector (Marked 8) 20
  /-- IN[0..254] (R31) -/
  inp    : Vector (Marked 8) 255
deriving DecidableEq, Repr, Inhabited

/-- The result registers of R22, each with its valid mark (R32, R33, R37). -/
structure ResultRegs where
  /-- RES0 (R32) -/
  res0   : Marked 32
  /-- RES1 (R32) -/
  res1   : Marked 32
  /-- OUT_LEN, bits 4:0 (R33) -/
  outLen : Marked 5
  /-- OUT[0..15] (R33) -/
  out    : Vector (Marked 8) 16
deriving DecidableEq, Repr, Inhabited

/-- The outcomes a command can end with (R26, R230). The value NONE of STATUS.CODE is no outcome: STATUS.CODE is an
`Option CmdOutcome`. -/
inductive CmdOutcome where
  /-- 1: the command produced its result. -/
  | ok
  /-- 2: null input, or input that sanitizes to empty. -/
  | absent
  /-- 3: the source's InvalidInput. -/
  | invalidInput
  /-- 4: the source's DigestUnavailable. -/
  | digestUnavailable
  /-- 5: the command word selects no operation. -/
  | illegalCmd
deriving DecidableEq, Repr, Inhabited

/-- The result registers an operation lists in its `finish` (R37): those not listed become not valid. -/
structure Results where
  res0 : Option Word
  res1 : Option Word
  /-- OUT_LEN and OUT together: the byte string (R33). -/
  out  : Option (List Byte)
deriving DecidableEq, Repr, Inhabited

/-- What a completion step publishes (R36): the outcome and the listed results. -/
structure Completion where
  outcome : CmdOutcome
  results : Results
deriving DecidableEq, Repr, Inhabited

/-- The snapshot of a command in flight (R36), with the turns left before its completion (R267, log entry 2). -/
structure InFlight where
  /-- the command word written to CMD -/
  word : Word
  /-- the operand registers the operation reads, with their written marks; the others blank (log entry 13) -/
  ops  : Operands
  /-- the turns of the host still to come before the completion step -/
  wait : Nat
deriving DecidableEq, Repr, Inhabited

/-- What a CMD write while busy leaves behind (R264): a command in flight with commands queued after it, or no command
in flight with whatever STATUS.CODE and results the hardware shows then. Which one is a free value (log entry 9). -/
inductive BusyWrite where
  | pending (f : InFlight) (rest : List InFlight)
  | ended (code : Option CmdOutcome) (results : Results)
deriving DecidableEq, Repr, Inhabited

/-- The protocol faults of R240. -/
inductive ProtocolFault where
  /-- the host reads CMD, or writes a read-only register (R66) -/
  | accessViolation
  /-- the host accesses a reserved register number (R62) -/
  | reservedAccess
  /-- the host reads an operand register not written since reset (R35) -/
  | unwrittenRead
  /-- a command read an operand register not written since reset (R35) -/
  | unwrittenOperand
  /-- the host reads a result register not valid, or any result register while busy (R37) -/
  | resultNotValid
  /-- the host writes CMD while busy (R264) -/
  | cmdWhileBusy
deriving DecidableEq, Repr, Inhabited

/-- A move of the host (R20, R94, R270). -/
inductive HostMove where
  /-- `WR REG, v` by register number (R93) -/
  | wr (r : RegNum) (v : Word)
  /-- `RD REG` by register number (R93) -/
  | rd (r : RegNum)
  /-- POLL: read STATUS until BUSY is 0 (R94) -/
  | poll
  /-- RDOUT: read OUT_LEN, then OUT[0..OUT_LEN-1] (R94) -/
  | rdOut
  /-- reset the block (R261, R270) -/
  | reset
deriving DecidableEq, Repr, Inhabited

end Sys2Proof.Machine
end

