-- ==== Sys2Proof/Config.lean ====
section
/-! DEFINITION. What an implementation fixes (the OPEN parameters of 00_scope.md R8) and the free values, constants
with no body of which nothing can be proved. -/

namespace Sys2Proof

/-- The readings of W64_INTERNAL_WS (R8, R113). -/
inductive InternalWs where
  /-- every whitespace byte is removed -/
  | strip
  /-- only leading and trailing whitespace is removed -/
  | keep
deriving DecidableEq, Repr, Inhabited

/-- The OPEN parameters of R8 (LATENCY apart: it is a free value for each command). The model takes them as an argument:
they stand in `State.params`, which no step changes (log entry 4). -/
structure Params where
  /-- WS_SET: the whitespace bytes -/
  ws         : List Byte
  /-- W64_INTERNAL_WS -/
  internalWs : InternalWs
  /-- HEX_LOWER_OK -/
  hexLowerOk : Bool
deriving DecidableEq, Repr, Inhabited

/-- The defaults that R8 gives the OPEN parameters. -/
def Params.default : Params :=
  { ws := [0x09, 0x0A, 0x0B, 0x0C, 0x0D, 0x20], internalWs := .strip, hexLowerOk := true }

/-- Free value: the latency of a command, any finite number of turns (R267, D21, log entry 2). -/
opaque Config.latency : Nat → Nat

/-- Free value: what a host read returns where the hardware's answer is unspecified (R35, R37, R62, R66, log entry 7). -/
opaque Config.freeRead : Nat → Word

/-- Free value: the outcome and results of a command with an unwritten operand (R35, R240, log entry 8). -/
opaque Config.freeCompletion : Nat → Machine.Completion

/-- Free value: the response to a CMD write while busy (R264, log entry 9). -/
opaque Config.busyWrite : Nat → Machine.BusyWrite

end Sys2Proof
end

