-- ==== Sys2Proof/Machine/State.lean ====
section
/-! DEFINITION. The state of the block (10_state.md R41), the reasons a meaning can stop, and the state after reset
(70_reset_and_hazards.md R260). -/

namespace Sys2Proof.Machine

/-- Why the model stops. Protocol faults and error outcomes are NOT here: they are next states (R230, R240). -/
inductive Fault where
  /-- Raised by every meaning when it is called in a state that holds no command in flight: completion is enabled only
  while one is (R20, R36). `step` never calls a meaning so. Safe: the model says nothing of such a call (log entry 14). -/
  | noCommandInFlight
deriving DecidableEq, Repr

/-- Why the model gives an instruction no meaning. -/
inductive Refusal where
  /-- Raised by an arm of `exec` whose instruction has no meaning yet; no arm does. Safe: the machine stops. -/
  | notModelled (mnemonic : String)
deriving DecidableEq, Repr

/-- The state of the block and of the host's side of its interface: plain data. -/
structure State where
  /-- CHAR_IN, PAY_IN, CODE_IN, DIG, IN with their written marks (R27 to R35) -/
  operands  : Operands
  /-- the in-flight snapshot, present exactly when STATUS.BUSY = 1 (R36, R41) -/
  inFlight  : Option InFlight
  /-- STATUS.CODE; `none` is NONE (R25, R26) -/
  code      : Option CmdOutcome
  /-- RES0, RES1, OUT_LEN, OUT with their valid marks (R32, R33, R37) -/
  results   : ResultRegs
  /-- the protocol faults recorded since reset, oldest first (R240, R241) -/
  faults    : List ProtocolFault
  /-- the values the host has read since reset, oldest first (R269) -/
  observed  : List Word
  /-- the host's pending moves, in program order (R20, R70; the model's own field, log entry 1) -/
  host      : List HostMove
  /-- commands queued by a CMD write while busy (R264; the model's own field, log entry 9) -/
  queued    : List InFlight
  /-- latencies already settled for the next commands (R267; the model's own field, log entry 2) -/
  latencies : List Nat
  /-- the number of free values drawn so far (the model's own field, log entry 16) -/
  fresh     : Nat
  /-- the OPEN parameters of R8: configuration, changed by no step (log entry 4) -/
  params    : Params
deriving DecidableEq, Repr

/-- A register whose mark is false: not written (R35), or not valid (R37). Its value is the model's choice and is never
observed (log entries 5, 6). -/
def Marked.unset (w : Nat) : Marked w := { val := 0, mark := false }

/-- Operand registers none of which is written (R260). -/
def Operands.unwritten : Operands :=
  { charIn := Marked.unset 8, payIn := Marked.unset 24, codeIn := Marked.unset 26,
    dig := Vector.replicate 20 (Marked.unset 8), inp := Vector.replicate 255 (Marked.unset 8) }

/-- Result registers none of which is valid (R260). -/
def ResultRegs.invalid : ResultRegs :=
  { res0 := Marked.unset 32, res1 := Marked.unset 32, outLen := Marked.unset 5,
    out := Vector.replicate 16 (Marked.unset 8) }

/-- The state after reset (R260): BUSY 0, CODE NONE, nothing in flight, no operand register written, no result register
valid, no fault recorded; the host has no move pending and the parameters are the defaults of R8. -/
def State.reset : State :=
  { operands := Operands.unwritten, inFlight := none, code := none, results := ResultRegs.invalid,
    faults := [], observed := [], host := [], queued := [], latencies := [], fresh := 0, params := Params.default }

end Sys2Proof.Machine
end

