-- ==== Sys2Proof/Machine/Flags.lean ====
section
/-! DEFINITION. STATUS (10_state.md R25, R26), the only flag register of the block (R40), and the parity computations
(00_scope.md R10, 41_wiegand26_encode.md R145). -/

namespace Sys2Proof.Machine

/-- STATUS.BUSY: a command is in flight (R25, R41; log entry 19). -/
def State.busy (s : State) : Bool := s.inFlight.isSome

/-- The value of STATUS.CODE (R26). -/
def codeBits : Option CmdOutcome → BitVec 4
  | none => 0
  | some .ok => 1
  | some .absent => 2
  | some .invalidInput => 3
  | some .digestUnavailable => 4
  | some .illegalCmd => 5

/-- The word a read of STATUS returns: BUSY at bit 4, CODE in bits 3:0, zeros above (R25). -/
def State.statusWord (s : State) : Word :=
  bitAt 4 s.busy ||| (codeBits s.code).setWidth 32

/-- The number of 1 bits (R10). -/
def popcount {w : Nat} (v : BitVec w) : Nat := (List.range w).countP v.getLsbD

/-- `popcount(v) mod 2` (R10). -/
def parity {w : Nat} (v : BitVec w) : Nat := popcount v % 2

/-- The even-parity field, bits 25..13 (R13, R142). -/
def evenField (c : Code26) : BitVec 13 := c.extractLsb' 13 13

/-- The odd-parity field, bits 12..0 (R13, R143). -/
def oddField (c : Code26) : BitVec 13 := c.extractLsb' 0 13

/-- EVEN_OK: the even-parity field has an even number of 1 bits (R145). -/
def evenOk (c : Code26) : Bool := parity (evenField c) == 0

/-- ODD_OK: the odd-parity field has an odd number of 1 bits (R145). -/
def oddOk (c : Code26) : Bool := parity (oddField c) == 1

end Sys2Proof.Machine
end

