-- ==== Sys2Proof/Machine/Operands.lean ====
section
/-! DEFINITION. The operands of the operations: which registers each reads, their capture at the CMD write, and the
assembly of the input string and the digest (30_encoding.md R83, R84, R92; 10_state.md R35, R36). -/

namespace Sys2Proof.Machine

/-- The input string IN[0], ..., IN[len-1] (R83). -/
def inputString (len : Nat) (o : Operands) : List Byte := (o.inp.toList.take len).map (·.val)

/-- The IN registers of the input string are all written (R35). -/
def inputWritten (len : Nat) (o : Operands) : Bool := (o.inp.toList.take len).all (·.mark)

/-- Digest byte i (R30). -/
def digestByte (o : Operands) (i : Fin 20) : Byte := o.dig[i].val

/-- DIG[17], DIG[18] and DIG[19] are written (R35, R92). -/
def digestWritten (o : Operands) : Bool := o.dig[17].mark && o.dig[18].mark && o.dig[19].mark

/-- Every operand register the operation reads is written (R35, R92). -/
def operandsWritten : Instr → Operands → Bool
  | .chcls, o => o.charIn.mark
  | .ch6, o => o.charIn.mark
  | .pargen, o => o.payIn.mark
  | .parchk, o => o.codeIn.mark
  | .w26enc hashOk, o => !hashOk || digestWritten o
  | .san26 present len, o => !present || inputWritten len o
  | .san64 present len, o => !present || inputWritten len o
  | .w26dfc present len, o => !present || inputWritten len o
  | .w26did present len, o => !present || inputWritten len o
  | .w26dpl present len, o => !present || inputWritten len o
  | .w26dcc present len, o => !present || inputWritten len o
  | .w64enc present len, o => !present || inputWritten len o

/-- The capture of CHAR_IN alone. -/
def captureChar (o : Operands) : Operands := { Operands.unwritten with charIn := o.charIn }

/-- The capture of DIG[17..19], when the digest is read (R92). -/
def captureDigest (hashOk : Bool) (o : Operands) : Operands :=
  if hashOk then
    { Operands.unwritten with dig := o.dig.mapIdx fun i m => if 17 ≤ i then m else Marked.unset 8 }
  else Operands.unwritten

/-- The capture of IN[0..len-1], when the string is present (R84, R92). -/
def captureInput (present : Bool) (len : Nat) (o : Operands) : Operands :=
  if present then
    { Operands.unwritten with inp := o.inp.mapIdx fun i m => if i < len then m else Marked.unset 8 }
  else Operands.unwritten

/-- The operand registers an operation reads, with their written marks; the others blank (R36, R92; log entry 13). -/
def captureFor : Instr → Operands → Operands
  | .chcls, o => captureChar o
  | .ch6, o => captureChar o
  | .pargen, o => { Operands.unwritten with payIn := o.payIn }
  | .parchk, o => { Operands.unwritten with codeIn := o.codeIn }
  | .w26enc hashOk, o => captureDigest hashOk o
  | .san26 present len, o => captureInput present len o
  | .san64 present len, o => captureInput present len o
  | .w26dfc present len, o => captureInput present len o
  | .w26did present len, o => captureInput present len o
  | .w26dpl present len, o => captureInput present len o
  | .w26dcc present len, o => captureInput present len o
  | .w64enc present len, o => captureInput present len o

end Sys2Proof.Machine
end

