-- ==== Sys2Proof/Machine/Registers.lean ====
section
/-! DEFINITION. The register space: 10-bit register numbers and what each names (20_memory.md R61, 10_state.md R22). -/

namespace Sys2Proof.Machine

/-- The interface registers of R22. -/
inductive Reg where
  | cmd | status | charIn | payIn | codeIn | res0 | res1 | outLen
  | out (i : Fin 16)
  | dig (i : Fin 20)
  | inp (i : Fin 255)
deriving DecidableEq, Repr

/-- The register a number names; `none` for a reserved number (R61, R62). -/
def regOfNumber (r : RegNum) : Option Reg :=
  if r = 0x000 then some .cmd
  else if r = 0x001 then some .status
  else if r = 0x002 then some .charIn
  else if r = 0x003 then some .payIn
  else if r = 0x004 then some .codeIn
  else if r = 0x005 then some .res0
  else if r = 0x006 then some .res1
  else if r = 0x007 then some .outLen
  else if h : 0x010 ≤ r.toNat ∧ r.toNat ≤ 0x01F then some (.out ⟨r.toNat - 0x010, by omega⟩)
  else if h : 0x020 ≤ r.toNat ∧ r.toNat ≤ 0x033 then some (.dig ⟨r.toNat - 0x020, by omega⟩)
  else if h : 0x100 ≤ r.toNat ∧ r.toNat ≤ 0x1FE then some (.inp ⟨r.toNat - 0x100, by omega⟩)
  else none

/-- The number of a register (R61). -/
def regNumber : Reg → RegNum
  | .cmd => 0x000
  | .status => 0x001
  | .charIn => 0x002
  | .payIn => 0x003
  | .codeIn => 0x004
  | .res0 => 0x005
  | .res1 => 0x006
  | .outLen => 0x007
  | .out i => BitVec.ofNat 10 (0x010 + i.val)
  | .dig i => BitVec.ofNat 10 (0x020 + i.val)
  | .inp i => BitVec.ofNat 10 (0x100 + i.val)

end Sys2Proof.Machine
end

