-- ==== Sys2Proof/Machine/Ops.lean ====
section
/-! DEFINITION. The named operations on the state: recording a protocol fault, publishing a completion, ending a command
with `finish` or `raise`, starting a command, the host's register reads and writes, and reset. -/

namespace Sys2Proof.Machine

/-! ## Marked registers -/

/-- A register after a step that may set it: set and marked, or its mark taken away (R37; the value then kept is never
observed, log entry 11). -/
def Marked.load {w : Nat} (m : Marked w) : Option (BitVec w) → Marked w
  | some v => { val := v, mark := true }
  | none => { m with mark := false }

/-! ## Completion -/

/-- No result register listed. -/
def noResults : Results := { res0 := none, res1 := none, out := none }

/-- The result registers after a step that makes exactly the listed ones valid (R37): OUT_LEN and OUT[0..OUT_LEN-1]
hold the byte string, of at most 16 bytes (OUT_MAX, R33). -/
def ResultRegs.publish (old : ResultRegs) (r : Results) : ResultRegs :=
  { res0 := old.res0.load r.res0
    res1 := old.res1.load r.res1
    outLen := old.outLen.load (r.out.map fun bytes => BitVec.ofNat 5 (bytes.take 16).length)
    out := old.out.mapIdx fun i m => m.load (r.out.bind fun bytes => bytes[i]?) }

/-- No result register valid (R38). -/
def ResultRegs.invalidate (old : ResultRegs) : ResultRegs := old.publish noResults

/-- `finish(results)`: the outcome OK with the listed result registers (R10, R37). -/
def finish (r : Results) : Completion := { outcome := .ok, results := r }

/-- `finish` with RES0 alone. -/
def finishRes0 (v : Word) : Completion := finish { res0 := some v, res1 := none, out := none }

/-- `finish` with OUT_LEN and OUT alone. -/
def finishOut (bytes : List Byte) : Completion := finish { res0 := none, res1 := none, out := some bytes }

/-- `raise <Outcome>`: an outcome with no result (R10, R232): the one entry into every error outcome (R237). -/
def raise (outcome : CmdOutcome) : Completion := { outcome := outcome, results := noResults }

/-- The completion step (R36): BUSY becomes 0, CODE the outcome, and the results are written, in one step. -/
def State.complete (s : State) (c : Completion) : State :=
  { s with inFlight := none, code := some c.outcome, results := s.results.publish c.results }

/-- The protocol fault is recorded; nothing takes it out again but reset (R10, R240). -/
def State.record (s : State) (f : ProtocolFault) : State := { s with faults := s.faults ++ [f] }

/-- The completion of a command that read an unwritten operand register: the fault is recorded, and the outcome and the
results are free (R35, R240; log entry 8). -/
def State.completeFree (s : State) : State :=
  { (s.record .unwrittenOperand).complete (Config.freeCompletion s.fresh) with fresh := s.fresh + 1 }

/-- The completion step of the command `i` in flight, whose operation is `op` (R35, R36): computed from the snapshot
alone. -/
def completeWith (i : Instr) (op : Params → Operands → Completion) (s : State) : Host.Outcome State Fault Refusal :=
  match s.inFlight with
  | none => .fault .noCommandInFlight
  | some f =>
    if operandsWritten i f.ops then .next (s.complete (op s.params f.ops)) else .next s.completeFree

/-- The completion step of an illegal command word (R89). -/
def State.completeIllegal (s : State) : State := s.complete (raise .illegalCmd)

/-! ## Starting a command -/

/-- The operand registers a command word makes the block capture: those its operation reads, none for an illegal word
(R36, R89, R92). -/
def captureWord (w : Word) (o : Operands) : Operands :=
  match decode w with
  | .ok i => captureFor i o
  | .error _ => Operands.unwritten

/-- The command `w` goes in flight with the given latency: BUSY becomes 1, CODE 0, the snapshot is captured and no result
register stays valid (R36, R38). -/
def State.start (s : State) (w : Word) (wait : Nat) : State :=
  { s with inFlight := some { word := w, ops := captureWord w s.operands, wait := wait }, code := none,
           results := s.results.invalidate }

/-- The latency of the next command: the next settled one, else the free value (R267; log entry 2). -/
def State.nextLatency (s : State) : Nat :=
  match s.latencies with
  | n :: _ => n
  | [] => Config.latency s.fresh

/-- A CMD write while no command is in flight (R36). -/
def State.startNext (s : State) (w : Word) : State :=
  { s.start w s.nextLatency with latencies := s.latencies.tail, fresh := s.fresh + 1 }

/-- A CMD write while busy: the fault is recorded and what becomes of the command in flight and of the new word is free
(R240, R264; log entry 9). -/
def State.writeWhileBusy (s : State) : State :=
  let t := { s.record .cmdWhileBusy with fresh := s.fresh + 1 }
  match Config.busyWrite s.fresh with
  | .pending f rest => { t with inFlight := some f, queued := rest }
  | .ended code r => { t with inFlight := none, queued := [], code := code, results := t.results.publish r }

/-- A host write of CMD (R24, R36, R264). -/
def State.writeCmd (s : State) (w : Word) : State := if s.busy then s.writeWhileBusy else s.startNext w

/-- A queued command goes in flight (R264; log entry 9): only after a CMD write while busy. -/
def State.startQueued (s : State) (f : InFlight) (rest : List InFlight) : State :=
  { s with inFlight := some f, queued := rest, code := none, results := s.results.invalidate }

/-! ## Host reads and writes of registers -/

/-- A read whose answer is unspecified: the fault is recorded and the value is free (R35, R37, R62, R66; log entry 7). -/
def State.faultyRead (s : State) (f : ProtocolFault) : Word × State :=
  (Config.freeRead s.fresh, { s.record f with fresh := s.fresh + 1 })

/-- A read of an operand register: its kept bits zero-extended, if it is written (R27 to R31, R35). -/
def State.readOperand {w : Nat} (s : State) (m : Marked w) : Word × State :=
  if m.mark then (m.val.setWidth 32, s) else s.faultyRead .unwrittenRead

/-- A read of a result register: its value, if it is valid and no command is in flight (R37). -/
def State.readResult {w : Nat} (s : State) (m : Marked w) : Word × State :=
  if m.mark && !s.busy then (m.val.setWidth 32, s) else s.faultyRead .resultNotValid

/-- A host read of a register number: the value it returns and the state it leaves, the same but for a fault (R65). -/
def State.readReg (s : State) (r : RegNum) : Word × State :=
  match regOfNumber r with
  | none => s.faultyRead .reservedAccess
  | some .cmd => s.faultyRead .accessViolation
  | some .status => (s.statusWord, s)
  | some .charIn => s.readOperand s.operands.charIn
  | some .payIn => s.readOperand s.operands.payIn
  | some .codeIn => s.readOperand s.operands.codeIn
  | some .res0 => s.readResult s.results.res0
  | some .res1 => s.readResult s.results.res1
  | some .outLen => s.readResult s.results.outLen
  | some (.out i) => s.readResult s.results.out[i]
  | some (.dig i) => s.readOperand s.operands.dig[i]
  | some (.inp i) => s.readOperand s.operands.inp[i]

/-- An operand register after a host write: the low bits kept, the others discarded, the written mark set (R27 to R31,
R34, R35). -/
def writtenWith (w : Nat) (v : Word) : Marked w := { val := v.setWidth w, mark := true }

/-- A host write of a register number (R62, R65, R66). A faulty write changes no register (R66; log entry 10). -/
def State.writeReg (s : State) (r : RegNum) (v : Word) : State :=
  match regOfNumber r with
  | none => s.record .reservedAccess
  | some .cmd => s.writeCmd v
  | some .charIn => { s with operands := { s.operands with charIn := writtenWith 8 v } }
  | some .payIn => { s with operands := { s.operands with payIn := writtenWith 24 v } }
  | some .codeIn => { s with operands := { s.operands with codeIn := writtenWith 26 v } }
  | some (.dig i) => { s with operands := { s.operands with dig := s.operands.dig.set i (writtenWith 8 v) } }
  | some (.inp i) => { s with operands := { s.operands with inp := s.operands.inp.set i (writtenWith 8 v) } }
  | some .status => s.record .accessViolation
  | some .res0 => s.record .accessViolation
  | some .res1 => s.record .accessViolation
  | some .outLen => s.record .accessViolation
  | some (.out _) => s.record .accessViolation

/-! ## Reset -/

/-- Reset by the host (R260, R261): the state of R260, whatever was in flight; the host's moves to come, the parameters
and the schedule of free values stay as they are (log entry 12). -/
def State.hostReset (s : State) : State :=
  { State.reset with host := s.host, latencies := s.latencies, fresh := s.fresh, params := s.params }

end Sys2Proof.Machine
end

