-- ==== Sys2Proof/Machine/Text.lean ====
section
/-! DEFINITION. Characters, the sanitizing functions and hexadecimal text (00_scope.md R11, R12; 40_sanitizer.md R110 to
R114; 42_wiegand26_decode.md R170). -/

namespace Sys2Proof.Machine

/-- '0'..'9' (R11). -/
def isDigit (b : Byte) : Bool := decide (0x30 ≤ b.toNat ∧ b.toNat ≤ 0x39)

/-- 'A'..'Z' (R11). -/
def isUpper (b : Byte) : Bool := decide (0x41 ≤ b.toNat ∧ b.toNat ≤ 0x5A)

/-- 'a'..'z' (R11). -/
def isLower (b : Byte) : Bool := decide (0x61 ≤ b.toNat ∧ b.toNat ≤ 0x7A)

/-- The Wiegand26 alphabet (R11). -/
def isAlnum26 (b : Byte) : Bool := isDigit b || isUpper b

/-- A byte of WS_SET (R11). -/
def isWs (p : Params) (b : Byte) : Bool := p.ws.contains b

/-- Uppercasing of one byte: only the 26 ASCII lowercase letters change (R110). -/
def upper (b : Byte) : Byte := if isLower b then b - 0x20 else b

/-- The longest prefix and the longest suffix of whitespace bytes removed (R111). -/
def trim (p : Params) (s : List Byte) : List Byte :=
  ((s.dropWhile (isWs p)).reverse.dropWhile (isWs p)).reverse

/-- The Wiegand26 sanitizing function (R112). -/
def sanitize26 (p : Params) (s : List Byte) : List Byte := ((trim p s).map upper).filter isAlnum26

/-- The Wiegand64 sanitizing function (R113). -/
def sanitize64 (p : Params) (s : List Byte) : List Byte :=
  match p.internalWs with
  | .strip => ((trim p s).map upper).filter fun b => !isWs p b
  | .keep => (trim p s).map upper

/-- PLATE_MAX, the longest sanitized plate (R8). -/
def plateMax : Nat := 10

/-- What the sanitizer makes of an input (R114). -/
inductive Sanitized where
  | absent
  | invalidInput
  | ok (t : List Byte)
deriving DecidableEq, Repr

/-- The sanitizer outcome (R114): null and empty are absent, more than ten bytes is invalid. -/
def sanitizeOutcome (f : List Byte → List Byte) (present : Bool) (s : List Byte) : Sanitized :=
  if present then
    if (f s).length = 0 then .absent
    else if (f s).length > plateMax then .invalidInput
    else .ok (f s)
  else .absent

/-- The byte of a digit value 0..15, uppercase (R12). -/
def hexDigit (d : Nat) : Byte := if d ≤ 9 then BitVec.ofNat 8 (0x30 + d) else BitVec.ofNat 8 (0x41 + (d - 10))

/-- `hex_k(v)`: the k-digit rendering, most-significant digit first (R12). -/
def hexText (k v : Nat) : List Byte := (List.range k).map fun i => hexDigit (v / 16 ^ (k - 1 - i) % 16)

/-- `hexval(b)` (R170); lowercase digits by HEX_LOWER_OK. -/
def hexVal (p : Params) (b : Byte) : Option Nat :=
  if 0x30 ≤ b.toNat ∧ b.toNat ≤ 0x39 then some (b.toNat - 0x30)
  else if 0x41 ≤ b.toNat ∧ b.toNat ≤ 0x46 then some (b.toNat - 0x41 + 10)
  else if 0x61 ≤ b.toNat ∧ b.toNat ≤ 0x66 ∧ p.hexLowerOk = true then some (b.toNat - 0x61 + 10)
  else none

/-- The value of digits read most-significant first; `none` when some byte has no digit value (R170). -/
def hexDigits (p : Params) : Nat → List Byte → Option Nat
  | acc, [] => some acc
  | acc, b :: rest =>
    match hexVal p b with
    | some d => hexDigits p (acc * 16 + d) rest
    | none => none

/-- `hexparse` (R170): `none` stands for INVALID_INPUT, on null, blank or malformed text. -/
def hexParse (p : Params) (present : Bool) (s : List Byte) : Option Nat :=
  if present then
    if s.all (isWs p) then none else hexDigits p 0 s
  else none

end Sys2Proof.Machine
end

