-- ==== Sys2Proof/Machine/Sanitizer.lean ====
section
/-! DEFINITION. The sanitizer: CHCLS, SAN26, SAN64 (40_sanitizer.md R116 to R118). -/

namespace Sys2Proof.Machine

/-- IN64 (R116): the byte itself, not uppercased, is of the 37-symbol alphabet. -/
def isIn64 (b : Byte) : Bool := b == 0x20 || isDigit b || isUpper b

/-- The word CHCLS gives for a byte: IN64 at bit 10, KEEP26 at 9, WS at 8, UP in 7:0 (R116). -/
def classWord (p : Params) (b : Byte) : Word :=
  bitAt 10 (isIn64 b) ||| bitAt 9 (isAlnum26 (upper b)) ||| bitAt 8 (isWs p b) ||| (upper b).setWidth 32

/-- The completion of a sanitizer outcome (R117, R118, R209): the two error outcomes, or what `k` makes of the plate. -/
def ofSanitized (k : List Byte → Completion) : Sanitized → Completion
  | .absent => raise .absent
  | .invalidInput => raise .invalidInput
  | .ok t => k t

/-- CHCLS: classify one byte (R116). -/
def execChcls (s : State) : Host.Outcome State Fault Refusal :=
  completeWith .chcls (fun p o => finishRes0 (classWord p o.charIn.val)) s

/-- SAN26: sanitize for Wiegand26 (R117). -/
def execSan26 (present : Bool) (len : Nat) (s : State) : Host.Outcome State Fault Refusal :=
  completeWith (.san26 present len)
    (fun p o => ofSanitized finishOut (sanitizeOutcome (sanitize26 p) present (inputString len o))) s

/-- SAN64: sanitize for Wiegand64 (R118). -/
def execSan64 (present : Bool) (len : Nat) (s : State) : Host.Outcome State Fault Refusal :=
  completeWith (.san64 present len)
    (fun p o => ofSanitized finishOut (sanitizeOutcome (sanitize64 p) present (inputString len o))) s

end Sys2Proof.Machine
end

