-- ==== Sys2Proof/Machine/Wiegand26Decode.lean ====
section
/-! DEFINITION. The Wiegand26 decoder: W26DFC, W26DID, W26DPL, W26DCC (42_wiegand26_decode.md). -/

namespace Sys2Proof.Machine

/-- `code26` (R172): `none` stands for INVALID_INPUT, also on more than 26 significant bits. No parity check (R179). -/
def code26 (p : Params) (present : Bool) (s : List Byte) : Option Code26 :=
  match hexParse p present s with
  | none => none
  | some v => if 2 ^ 26 ≤ v then none else some (BitVec.ofNat 26 v)

/-- The facility code, bits 24:17 (R173). -/
def facilityCode (c : Code26) : BitVec 8 := c.extractLsb' 17 8

/-- The ID number, bits 16:1 (R173). -/
def idNumber (c : Code26) : BitVec 16 := c.extractLsb' 1 16

/-- The payload, bits 24:1 (R173). -/
def payloadOf (c : Code26) : Payload := c.extractLsb' 1 24

/-- The concatenation `fc * 100000 + id` (R174). -/
def concatenation (c : Code26) : Nat := (facilityCode c).toNat * 100000 + (idNumber c).toNat

/-- The completion common to the decoder operations (R181): INVALID_INPUT, or RES0 with the field. -/
def decodeField (field : Code26 → Word) : Option Code26 → Completion
  | none => raise .invalidInput
  | some c => finishRes0 (field c)

/-- W26DFC: decode the facility code (R175). -/
def execW26dfc (present : Bool) (len : Nat) (s : State) : Host.Outcome State Fault Refusal :=
  completeWith (.w26dfc present len)
    (fun p o => decodeField (fun c => (facilityCode c).setWidth 32) (code26 p present (inputString len o))) s

/-- W26DID: decode the ID number (R176). -/
def execW26did (present : Bool) (len : Nat) (s : State) : Host.Outcome State Fault Refusal :=
  completeWith (.w26did present len)
    (fun p o => decodeField (fun c => (idNumber c).setWidth 32) (code26 p present (inputString len o))) s

/-- W26DPL: decode the 24-bit payload (R177). -/
def execW26dpl (present : Bool) (len : Nat) (s : State) : Host.Outcome State Fault Refusal :=
  completeWith (.w26dpl present len)
    (fun p o => decodeField (fun c => (payloadOf c).setWidth 32) (code26 p present (inputString len o))) s

/-- W26DCC: decode the concatenation (R178). -/
def execW26dcc (present : Bool) (len : Nat) (s : State) : Host.Outcome State Fault Refusal :=
  completeWith (.w26dcc present len)
    (fun p o => decodeField (fun c => BitVec.ofNat 32 (concatenation c)) (code26 p present (inputString len o))) s

end Sys2Proof.Machine
end

