-- ==== Sys2Proof/Machine/Wiegand26Encode.lean ====
section
/-! DEFINITION. The Wiegand26 encoder and the parity unit: W26ENC, PARGEN, PARCHK (41_wiegand26_encode.md). -/

namespace Sys2Proof.Machine

/-- `extract24` (R140): DIG[17] in bits 23:16, DIG[18] in 15:8, DIG[19] in 7:0. -/
def extract24 (o : Operands) : Payload :=
  (digestByte o 17).setWidth 24 <<< 16 ||| (digestByte o 18).setWidth 24 <<< 8 ||| (digestByte o 19).setWidth 24

/-- Step 3 (R141): the payload in bits 24:1. -/
def shiftPayload (p : Payload) : Word := p.setWidth 32 <<< 1

/-- Step 4 (R142): bit 25 makes the count of 1 bits in bits 25:13 even. -/
def setEvenParity (w0 : Word) : Word :=
  if parity (w0.extractLsb' 13 13) = 1 then w0 ||| 0x02000000 else w0

/-- Step 5 (R143): bit 0 makes the count of 1 bits in bits 12:0 odd. -/
def setOddParity (w1 : Word) : Word :=
  if parity (w1.extractLsb' 0 13) = 0 then w1 ||| 0x00000001 else w1

/-- The parity generator (R144); the result is a 26-bit value. -/
def pargen (p : Payload) : Code26 := (setOddParity (setEvenParity (shiftPayload p))).setWidth 26

/-- `hex7` (R146). -/
def hex7 (c : Code26) : List Byte := hexText 7 c.toNat

/-- W26ENC on a digest that is available (R147). -/
def encode26 (o : Operands) : Completion :=
  finish { res0 := some ((pargen (extract24 o)).setWidth 32), res1 := some ((extract24 o).setWidth 32),
           out := some (hex7 (pargen (extract24 o))) }

/-- PARGEN on a payload (R148). -/
def generateParity (p : Payload) : Completion :=
  finish { res0 := some ((pargen p).setWidth 32), res1 := none, out := some (hex7 (pargen p)) }

/-- The word PARCHK gives for a code: ODD_OK at bit 1, EVEN_OK at bit 0 (R149). -/
def parityWord (c : Code26) : Word := bitAt 1 (oddOk c) ||| bitAt 0 (evenOk c)

/-- W26ENC: digest to Wiegand26 code (R147). -/
def execW26enc (hashOk : Bool) (s : State) : Host.Outcome State Fault Refusal :=
  completeWith (.w26enc hashOk) (fun _ o => if hashOk then encode26 o else raise .digestUnavailable) s

/-- PARGEN: payload to code with parity (R148). -/
def execPargen (s : State) : Host.Outcome State Fault Refusal :=
  completeWith .pargen (fun _ o => generateParity o.payIn.val) s

/-- PARCHK: check both parity fields (R149). -/
def execParchk (s : State) : Host.Outcome State Fault Refusal :=
  completeWith .parchk (fun _ o => finishRes0 (parityWord o.codeIn.val)) s

end Sys2Proof.Machine
end

