-- ==== Sys2Proof/Machine/Wiegand64.lean ====
section
/-! DEFINITION. The Wiegand64 encoder: the character code table, CH6, W64ENC (43_wiegand64_encode.md). -/

namespace Sys2Proof.Machine

/-- The character code table (R39, R200), as a function of the byte (log entry 20). -/
def code6 (b : Byte) : BitVec 6 :=
  if b = 0x20 then 0
  else if isDigit b then BitVec.ofNat 6 (b.toNat - 0x30 + 16)
  else if isUpper b then BitVec.ofNat 6 (b.toNat - 0x41 + 26)
  else 63

/-- `pad10` (R202): right-aligned in ten bytes, spaces on the left. -/
def pad10 (t : List Byte) : List Byte := List.replicate (10 - t.length) 0x20 ++ t

/-- The bits of lane i of a padded plate (R203): its 6-bit code at bits (59 - 6i) down to (54 - 6i). -/
def lane (plate : List Byte) (i : Nat) : DWord := (code6 (plate.getD i 0x20)).setWidth 64 <<< (54 - 6 * i)

/-- `lanes` (R203): the sum of the ten lanes. -/
def lanes (t : List Byte) : DWord := ((List.range 10).map (lane (pad10 t))).foldl (· + ·) 0

/-- `w64` (R204): the header 0110 over the lanes. -/
def w64 (t : List Byte) : DWord := 0x6000000000000000 ||| lanes t

/-- `hex16` (R205). -/
def hex16 (w : DWord) : List Byte := hexText 16 w.toNat

/-- W64ENC on a sanitized plate (R209): RES1 bits 63:32, RES0 bits 31:0, OUT the sixteen digits. -/
def encode64 (t : List Byte) : Completion :=
  finish { res0 := some ((w64 t).extractLsb' 0 32), res1 := some ((w64 t).extractLsb' 32 32),
           out := some (hex16 (w64 t)) }

/-- CH6: 6-bit code of one byte, not uppercased (R208). -/
def execCh6 (s : State) : Host.Outcome State Fault Refusal :=
  completeWith .ch6 (fun _ o => finishRes0 ((code6 o.charIn.val).setWidth 32)) s

/-- W64ENC: plate to 64-bit code (R209). -/
def execW64enc (present : Bool) (len : Nat) (s : State) : Host.Outcome State Fault Refusal :=
  completeWith (.w64enc present len)
    (fun p o => ofSanitized encode64 (sanitizeOutcome (sanitize64 p) present (inputString len o))) s

end Sys2Proof.Machine
end

