-- ==== Sys2Proof/Machine/Dispatch.lean ====
section
/-! DEFINITION. The meaning of each command: the completion step of the command in flight. -/

namespace Sys2Proof.Machine

def exec (i : Instr) (s : State) : Host.Outcome State Fault Refusal :=
  match i with
  | .chcls => Sys2Proof.Machine.execChcls s
  | .ch6 => Sys2Proof.Machine.execCh6 s
  | .san26 present len => Sys2Proof.Machine.execSan26 present len s
  | .san64 present len => Sys2Proof.Machine.execSan64 present len s
  | .w26enc hashOk => Sys2Proof.Machine.execW26enc hashOk s
  | .pargen => Sys2Proof.Machine.execPargen s
  | .parchk => Sys2Proof.Machine.execParchk s
  | .w26dfc present len => Sys2Proof.Machine.execW26dfc present len s
  | .w26did present len => Sys2Proof.Machine.execW26did present len s
  | .w26dpl present len => Sys2Proof.Machine.execW26dpl present len s
  | .w26dcc present len => Sys2Proof.Machine.execW26dcc present len s
  | .w64enc present len => Sys2Proof.Machine.execW64enc present len s

end Sys2Proof.Machine
end

