-- ==== Sys2Proof/Machine/HostPort.lean ====
section
/-! DEFINITION. The host's moves on the register interface and its pseudo-instructions (10_state.md R20,
30_encoding.md R93, R94, 70_reset_and_hazards.md R270). -/

namespace Sys2Proof.Machine

/-- A host access that returns a value: the value joins the observation of the run (R269). -/
def observe (r : Word × State) : State := { r.2 with observed := r.2.observed ++ [r.1] }

/-- RDOUT's reads after OUT_LEN was read (R94): OUT[0] to OUT[OUT_LEN-1], of the sixteen there are (log entry 15). -/
def outReads (outLen : Word) : List HostMove :=
  (List.range (min outLen.toNat 16)).map fun i => .rd (BitVec.ofNat 10 (0x010 + i))

/-- One POLL access (R94): STATUS is read, and read again while bit 4 of the value is 1. -/
def pollStatus (s : State) : State :=
  if s.statusWord.getLsbD 4 then { observe (s.readReg 0x001) with host := .poll :: s.host }
  else observe (s.readReg 0x001)

/-- RDOUT (R94): OUT_LEN is read, then as many OUT registers as the value read says. -/
def readOutString (s : State) : State :=
  { observe (s.readReg 0x007) with host := outReads (s.readReg 0x007).1 ++ s.host }

/-- One move of the host in the state whose `host` holds the moves after it. -/
def performMove (s : State) : HostMove → State
  | .wr r v => s.writeReg r v
  | .rd r => observe (s.readReg r)
  | .poll => pollStatus s
  | .rdOut => readOutString s
  | .reset => s.hostReset

/-- The host's turn (R20): its next move in program order, or nothing when it has none. -/
def hostTurn (s : State) : State :=
  match s.host with
  | [] => s
  | m :: rest => performMove { s with host := rest } m

/-- `CMD m args` (R94). -/
def cmdMove (i : Instr) : HostMove := .wr 0x000 (encode i)

/-- `LDSTR "s"` (R94). -/
def ldStr (s : List Byte) : List HostMove :=
  s.zipIdx.map fun bi => .wr (BitVec.ofNat 10 (0x100 + bi.2)) (bi.1.setWidth 32)

/-- `LDDIG h0 ... h19` (R94). -/
def ldDig (h : List Byte) : List HostMove :=
  h.zipIdx.map fun bi => .wr (BitVec.ofNat 10 (0x020 + bi.2)) (bi.1.setWidth 32)

end Sys2Proof.Machine
end

