-- ==== Sys2Proof/Machine/Step.lean ====
section
/-! DEFINITION. One step of the machine: the block's completion step when the latency of the command in flight has run
out, else the host's turn (10_state.md R20, R36; 20_memory.md R70; 70_reset_and_hazards.md R267). -/

namespace Sys2Proof.Machine

/-- The completion step of the command word in flight: its operation, or ILLEGAL_CMD (R36, R89). -/
def runWord (w : Word) (s : State) : Host.Outcome State Fault Refusal :=
  match decode w with
  | .ok i => exec i s
  | .error _ => .next s.completeIllegal

/-- One step. While a command is in flight the host has `wait` turns, then the block completes it; while none is, the
host moves (log entries 1, 2), unless a CMD write while busy left a command queued (log entry 9). -/
def step (s : State) : Host.Outcome State Fault Refusal :=
  match s.inFlight with
  | some f =>
    match f.wait with
    | 0 => runWord f.word s
    | n + 1 => .next (hostTurn { s with inFlight := some { f with wait := n } })
  | none =>
    match s.queued with
    | f :: rest => .next (s.startQueued f rest)
    | [] => .next (hostTurn s)

/-- The state in which the command word `w` is in flight with no turn left before its completion, as a CMD write leaves
it (R36, R267; log entry 3): the next step decodes it and runs it. -/
def State.withFetchWord (s : State) (nbits w : Nat) : State := s.start (BitVec.ofNat 32 (w % 2 ^ nbits)) 0

end Sys2Proof.Machine
end

