-- ==== Sys2Proof/Safety.lean ====
section
/-! DEFINITION. What counts as a correct run, and the invariant every step keeps. -/

namespace Sys2Proof.Machine

/-- No protocol fault is recorded: the run so far is a correct one (R241, R269). -/
def State.correct (s : State) : Prop := s.faults = []

/-- A run may end here as a correct run: no command in flight and no protocol fault recorded (R269). -/
def State.correctEnd (s : State) : Prop := s.busy = false ∧ s.faults = []

/-- No result register is valid (R37, R38). -/
def ResultRegs.NoneValid (r : ResultRegs) : Prop :=
  r.res0.mark = false ∧ r.res1.mark = false ∧ r.outLen.mark = false ∧ ∀ i : Fin 16, r.out[i].mark = false

/-- OUT_LEN, when valid, is at most 16, and exactly the OUT registers below it are valid; when it is not valid none is
(R33, R37). -/
def ResultRegs.OutShape (r : ResultRegs) : Prop :=
  (r.outLen.mark = true → r.outLen.val.toNat ≤ 16) ∧
  ∀ i : Fin 16, r.out[i].mark = true ↔ (r.outLen.mark = true ∧ i.val < r.outLen.val.toNat)

/-- The invariant of the interface: while a command is in flight CODE is 0 and no result is valid (R25, R36, R38), OUT
has the shape of a byte string (R33, R37), and commands are queued only after a fault (R238, R264). -/
structure State.Inv (s : State) : Prop where
  busyCode    : s.busy = true → s.code = none
  busyResults : s.busy = true → s.results.NoneValid
  outShape    : s.results.OutShape
  queuedFault : s.queued ≠ [] → s.faults ≠ []
  /-- without a fault, only the outcome OK leaves results (R37, R232) -/
  onlyOk      : s.faults = [] → s.code ≠ some .ok → s.results.NoneValid

/-- A result register that holds a result, with its value (R37). -/
def validOne {w : Nat} (reg : Reg) (m : Marked w) : List (RegNum × Word) :=
  if m.mark then [(regNumber reg, m.val.setWidth 32)] else []

/-- The result registers that hold a result, with their values (R37). -/
def ResultRegs.valid (r : ResultRegs) : List (RegNum × Word) :=
  validOne .res0 r.res0 ++ validOne .res1 r.res1 ++ validOne .outLen r.outLen ++
    (List.finRange 16).flatMap fun i => validOne (.out i) r.out[i]

/-- The observation of a run that ends here (R269): what the host read, the final STATUS, the valid result registers. -/
def State.observation (s : State) : List Word × Word × List (RegNum × Word) :=
  (s.observed, s.statusWord, s.results.valid)

/-- Two banks of result registers the host cannot tell apart (R37): the same registers are valid, with the same values. -/
def ResultRegs.Same (r r' : ResultRegs) : Prop := r.valid = r'.valid

/-- RES0 holds `v` and no other result register is valid (R32, R37). -/
def ResultRegs.OnlyRes0 (r : ResultRegs) (v : Word) : Prop :=
  r.res0 = { val := v, mark := true } ∧ r.res1.mark = false ∧ r.outLen.mark = false ∧
    ∀ i : Fin 16, r.out[i].mark = false

/-- OUT_LEN and OUT hold the byte string: OUT_LEN its length, OUT[i] its byte i, and no OUT register beyond is valid
(R33, R37). -/
def ResultRegs.HoldsText (r : ResultRegs) (t : List Byte) : Prop :=
  r.outLen.mark = true ∧ r.outLen.val.toNat = t.length ∧
    ∀ i : Fin 16, (∀ h : i.val < t.length, r.out[i] = { val := t[i.val], mark := true }) ∧
      (t.length ≤ i.val → r.out[i].mark = false)

/-- What a completion step leaves alone (R36, R232, R35): every operand register, the recorded faults, what the host has
read and has still to do, and the parameters. Only BUSY, CODE and the result registers change. -/
def CompletionFrame (s t : State) : Prop :=
  t.operands = s.operands ∧ t.inFlight = none ∧ t.faults = s.faults ∧ t.observed = s.observed ∧ t.host = s.host ∧
    t.queued = s.queued ∧ t.latencies = s.latencies ∧ t.fresh = s.fresh ∧ t.params = s.params

/-- It is the host's turn in `s`, and `u` is the state in which the host makes its move (R20, R70, R267): no command is
in flight or queued, or the command in flight has a turn to wait, which the turn uses up. -/
def HostTurnFrom (s u : State) : Prop :=
  (s.inFlight = none ∧ s.queued = [] ∧ u = s) ∨
  ∃ f n, s.inFlight = some f ∧ f.wait = n + 1 ∧ u = { s with inFlight := some { f with wait := n } }

end Sys2Proof.Machine
end

