-- ==== Sys2Proof/Certificates/Slice0/Obligations.lean ====
section
/-! DEFINITION. The statements for the provers, from the numbered rules of spec/. -/

open Sys2Proof Sys2Proof.Machine

namespace Sys2Proof.Machine

/-! ## Words used by the statements -/

/-- The OP values of the opcode map by class (R87, R88). -/
def opsOfClassN : List Nat := [0x01, 0x02, 0x21, 0x22]

/-- The OP values of class S (R87, R88). -/
def opsOfClassS : List Nat := [0x10, 0x11, 0x30, 0x31, 0x32, 0x33, 0x40]

/-- The three conditions of R89, on the number a command word is. -/
def IllegalByRule (w : Nat) : Prop :=
  w / 2 ^ 18 ≠ 0 ∨
  (w % 2 ^ 8 ∉ opsOfClassN ∧ w % 2 ^ 8 ∉ opsOfClassS ∧ w % 2 ^ 8 ≠ 0x20) ∨
  (w % 2 ^ 8 ∈ opsOfClassN ∧ w / 2 ^ 8 % 2 ^ 10 ≠ 0) ∨
  (w % 2 ^ 8 ∈ opsOfClassS ∧ w / 2 ^ 17 % 2 ≠ 0) ∨
  (w % 2 ^ 8 = 0x20 ∧ w / 2 ^ 8 % 2 ^ 9 ≠ 0)

/-- A register number that names nothing in the map of R61. -/
def ReservedNumber (r : RegNum) : Prop :=
  (0x008 ≤ r.toNat ∧ r.toNat ≤ 0x00F) ∨ (0x034 ≤ r.toNat ∧ r.toNat ≤ 0x0FF) ∨ 0x1FF ≤ r.toNat

/-- The number of a read-only register: STATUS, RES0, RES1, OUT_LEN, OUT[i] (R22, R61). -/
def ReadOnlyNumber (r : RegNum) : Prop :=
  r = 0x001 ∨ r = 0x005 ∨ r = 0x006 ∨ r = 0x007 ∨ (0x010 ≤ r.toNat ∧ r.toNat ≤ 0x01F)

/-- The number of an operand register: CHAR_IN, PAY_IN, CODE_IN, DIG[i], IN[i] (R22, R61). -/
def OperandNumber (r : RegNum) : Prop :=
  r = 0x002 ∨ r = 0x003 ∨ r = 0x004 ∨ (0x020 ≤ r.toNat ∧ r.toNat ≤ 0x033) ∨ (0x100 ≤ r.toNat ∧ r.toNat ≤ 0x1FE)

/-- The step `s` takes is a host read that returns `v` and does nothing else (R65). -/
def ReadsPlainly (s u : State) (rest : List HostMove) (v : Word) : Prop :=
  step s = .next { u with host := rest, observed := u.observed ++ [v] }

/-- The step `s` takes is a host read that records the fault `k`; the value returned is free (R37, R240). -/
def ReadsFaultily (s u : State) (rest : List HostMove) (k : ProtocolFault) : Prop :=
  ∃ v, step s =
    .next { u with host := rest, observed := u.observed ++ [v], faults := u.faults ++ [k], fresh := u.fresh + 1 }

/-- The word is the value of STATUS in `s` (R25, R26): CODE in bits 3:0, BUSY at bit 4, zeros above. -/
def StatusValue (s : State) (v : Word) : Prop :=
  v.extractLsb' 5 27 = 0 ∧ (v.getLsbD 4 = true ↔ s.inFlight ≠ none) ∧
    v.toNat % 16 = match s.code with
      | none => 0
      | some .ok => 1
      | some .absent => 2
      | some .invalidInput => 3
      | some .digestUnavailable => 4
      | some .illegalCmd => 5

/-- A read of the operand register `m` by the number `r` (R35). -/
def OperandReadRule {w : Nat} (s u : State) (rest : List HostMove) (r : RegNum) (m : Marked w) : Prop :=
  s.host = .rd r :: rest →
    (m.mark = true → ReadsPlainly s u rest (m.val.setWidth 32)) ∧
    (m.mark = false → ReadsFaultily s u rest .unwrittenRead)

/-- The reads of OUT[0] to OUT[n-1], in that order (R94, R61). -/
def outReadsOf (n : Nat) : List HostMove := (List.range n).map fun i => .rd (BitVec.ofNat 10 (0x010 + i))

/-- A read of the result register `m` by the number `r` (R37). -/
def ResultReadRule {w : Nat} (s u : State) (rest : List HostMove) (r : RegNum) (m : Marked w) : Prop :=
  s.host = .rd r :: rest →
    (m.mark = true ∧ s.busy = false → ReadsPlainly s u rest (m.val.setWidth 32)) ∧
    (m.mark = false ∨ s.busy = true → ReadsFaultily s u rest .resultNotValid)

/-- The input string is readable: when PRESENT = 1, IN[0..len-1] of the snapshot are written (R35, R92). -/
def InputReady (present : Bool) (len : Nat) (f : InFlight) : Prop :=
  present = true → ∀ i : Fin 255, i.val < len → f.ops.inp[i].mark = true

/-- The digest bytes W26ENC reads are written (R35, R92). -/
def DigestReady (f : InFlight) : Prop :=
  f.ops.dig[17].mark = true ∧ f.ops.dig[18].mark = true ∧ f.ops.dig[19].mark = true

/-- The payload of R140 as a number. -/
def payloadNumber (f : InFlight) : Nat :=
  f.ops.dig[17].val.toNat * 2 ^ 16 + f.ops.dig[18].val.toNat * 2 ^ 8 + f.ops.dig[19].val.toNat

/-- The closed form of the parity generator (R144), on the 24-bit number `p`. -/
def codeNumber (p : Nat) : Nat :=
  parity (BitVec.ofNat 12 (p / 2 ^ 12)) * 2 ^ 25 + p * 2 + (1 - parity (BitVec.ofNat 12 p))

/-- The text is a hexadecimal numeral of value `v` (R170): not blank, every byte a digit, the first most significant. -/
def HexNumeral (p : Params) (x : List Byte) (v : Nat) : Prop :=
  (∃ b ∈ x, b ∉ p.ws) ∧ ∃ ds : List Nat, x.map (hexVal p) = ds.map some ∧ Nat.ofDigits 16 ds.reverse = v

/-- A completing command ends with an outcome that leaves no result (R232). -/
def EndsWithout (s t : State) (c : CmdOutcome) : Prop :=
  t.code = some c ∧ t.results.NoneValid ∧ CompletionFrame s t

/-- The decoder operation `i` gives `field` of the value of the text (R170, R172, R181). -/
def DecoderRule (i : Bool → Nat → Instr) (field : Nat → Nat) : Prop :=
  ∀ s f present len, s.inFlight = some f → InputReady present len f →
    ∃ t, exec (i present len) s = .next t ∧
      ((present = true ∧ ∃ v, HexNumeral s.params (inputString len f.ops) v ∧ v < 2 ^ 26 ∧
          t.code = some .ok ∧ t.results.OnlyRes0 (BitVec.ofNat 32 (field v)) ∧ CompletionFrame s t) ∨
       ((present = false ∨ ¬ ∃ v, HexNumeral s.params (inputString len f.ops) v ∧ v < 2 ^ 26) ∧
          EndsWithout s t .invalidInput))

/-- The sanitizer operation `i` gives the sanitized text of at most ten bytes (R114, R117, R118). -/
def SanitizerRule (i : Bool → Nat → Instr) (sanitize : Params → List Byte → List Byte) : Prop :=
  ∀ s f present len, s.inFlight = some f → InputReady present len f →
    ∃ t, exec (i present len) s = .next t ∧
      if present = false ∨ sanitize s.params (inputString len f.ops) = [] then EndsWithout s t .absent
      else if (sanitize s.params (inputString len f.ops)).length > 10 then EndsWithout s t .invalidInput
      else t.code = some .ok ∧ t.results.res0.mark = false ∧ t.results.res1.mark = false ∧
        t.results.HoldsText (sanitize s.params (inputString len f.ops)) ∧ CompletionFrame s t

/-- The number the Wiegand64 encoder makes of a sanitized plate (R202 to R204): the header 6 over ten lanes. -/
def w64Number (t : List Byte) : Nat :=
  6 * 2 ^ 60 + ∑ i ∈ Finset.range 10,
    (code6 ((List.replicate (10 - t.length) 0x20 ++ t).getD i 0x20)).toNat * 2 ^ (54 - 6 * i)

/-- A byte of the 36 symbols '0'..'9', 'A'..'Z' (R210). -/
def IsSymbol36 (b : Byte) : Prop :=
  (0x30 ≤ b.toNat ∧ b.toNat ≤ 0x39) ∨ (0x41 ≤ b.toNat ∧ b.toNat ≤ 0x5A)

/-- The outcomes R231 and R234 allow an operation whose operands are written. -/
def allowedOutcomes : Instr → List CmdOutcome
  | .chcls => [.ok]
  | .ch6 => [.ok]
  | .pargen => [.ok]
  | .parchk => [.ok]
  | .san26 _ _ => [.ok, .absent, .invalidInput]
  | .san64 _ _ => [.ok, .absent, .invalidInput]
  | .w64enc _ _ => [.ok, .absent, .invalidInput]
  | .w26enc _ => [.ok, .digestUnavailable]
  | .w26dfc _ _ => [.ok, .invalidInput]
  | .w26did _ _ => [.ok, .invalidInput]
  | .w26dpl _ _ => [.ok, .invalidInput]
  | .w26dcc _ _ => [.ok, .invalidInput]

/-- LEN of a command that reads the input string, when its string is present (R92). -/
def stringLen : Instr → Option Nat
  | .san26 present len => if present then some len else none
  | .san64 present len => if present then some len else none
  | .w26dfc present len => if present then some len else none
  | .w26did present len => if present then some len else none
  | .w26dpl present len => if present then some len else none
  | .w26dcc present len => if present then some len else none
  | .w64enc present len => if present then some len else none
  | .chcls => none
  | .ch6 => none
  | .pargen => none
  | .parchk => none
  | .w26enc _ => none

/-- A register of the snapshot: the operand register's value and mark where the operation reads it, unwritten where it
does not (R36, R92). -/
def Captured {w : Nat} (reads : Prop) (snap reg : Marked w) : Prop := (reads → snap = reg) ∧ (¬reads → snap.mark = false)

/-- A host move that leaves the command in flight alone: not a reset and not a CMD write (R261, R264, R265). -/
def leavesFlight : HostMove → Bool
  | .wr r _ => r ≠ 0x000
  | .rd _ => true
  | .poll => true
  | .rdOut => true
  | .reset => false

end Sys2Proof.Machine

/-! ## Reset and the invariant -/

/-- R260: what reset leaves. The values of registers not written or not valid are the model's own and not stated. -/
def Obligations.ResetLeavesTheStateOfTheTable : Prop :=
  State.reset.busy = false ∧ State.reset.code = none ∧ State.reset.statusWord = 0 ∧ State.reset.inFlight = none ∧
    State.reset.operands.charIn.mark = false ∧ State.reset.operands.payIn.mark = false ∧
    State.reset.operands.codeIn.mark = false ∧ (∀ i : Fin 20, State.reset.operands.dig[i].mark = false) ∧
    (∀ i : Fin 255, State.reset.operands.inp[i].mark = false) ∧ State.reset.results.NoneValid ∧ State.reset.faults = []

/-- The invariant holds at reset. -/
def Obligations.InvariantHoldsAtReset : Prop := State.reset.Inv

/-- Every step keeps the invariant: CODE 0 and no valid result while busy, the shape of OUT, no queue without a fault,
results only after OK (R25, R33, R36, R37, R38, R238). After a recorded fault this is the model's choice, where the spec
leaves it open: the results of a completion with an unwritten operand have the shape of R33 and R37 by log entry 8, and
what a CMD write while busy leaves, the queue among it, is settled by log entry 9. -/
def Obligations.StepKeepsTheInvariant : Prop := ∀ s t : State, s.Inv → step s = .next t → t.Inv

/-! ## Encoding -/

/-- R93, R95: decoding the word of a well-formed command gives the command back, every field at every value. -/
def Obligations.DecodeOfEncodeIsTheCommand : Prop := ∀ i : Instr, i.wellFormed = true → decode (encode i) = .ok i

/-- R88: a word selects an operation exactly when it matches the operation's row under the row's mask; the command it
selects is well-formed and encodes to the word again. -/
def Obligations.WordSelectsTheMatchingRow : Prop :=
  (∀ (w : Word) (i : Instr), decode w = .ok i → w &&& i.rowMask = i.rowMatch ∧ i.wellFormed = true ∧ encode i = w) ∧
  (∀ (w : Word) (i : Instr), w &&& i.rowMask = i.rowMatch → ∃ j, decode w = .ok j ∧ j.rowMatch = i.rowMatch)

/-- R89: which words are illegal; an illegal command is accepted, captures no operand, completes with ILLEGAL_CMD and no
valid result, and is no protocol fault. -/
def Obligations.IllegalWordIsAcceptedAndEndsIllegal : Prop :=
  (∀ w : Word, (∃ e, decode w = .error e) ↔ IllegalByRule w.toNat) ∧
  (∀ s w rest, IllegalByRule w.toNat → s.inFlight = none → s.queued = [] → s.host = .wr 0x000 w :: rest →
    ∃ t f, step s = .next t ∧ t.inFlight = some f ∧ f.word = w ∧ f.ops = Operands.unwritten ∧ t.faults = s.faults) ∧
  (∀ s f, s.inFlight = some f → f.wait = 0 → IllegalByRule f.word.toNat →
    ∃ t, step s = .next t ∧ EndsWithout s t .illegalCmd)

/-- Words written out from the field table R81 decode to the commands they stand for, and three illegal ones do not. -/
def Obligations.WordsOfTheFieldTableDecode : Prop :=
  decode 0x00000001 = .ok .chcls ∧ decode 0x00010910 = .ok (.san26 true 9) ∧
    decode 0x0000FF10 = .ok (.san26 false 255) ∧ decode 0x00020020 = .ok (.w26enc true) ∧
    decode 0x00000022 = .ok .parchk ∧ decode 0x00010733 = .ok (.w26dcc true 7) ∧
    decode 0x00010340 = .ok (.w64enc true 3) ∧ decode 0x00000101 = .error .unusedField ∧
    decode 0x000000FF = .error .unassignedOp ∧ decode 0x80010910 = .error .reservedBits

/-! ## Step and host -/

/-- R36, R70, R267 (the turns are the model's, log entries 1 and 2): with no turn left the step runs the decoded
command; with turns left, or with nothing in flight, the host moves; a host without moves changes nothing but the turns
left. -/
def Obligations.StepRunsTheDecodedCommand : Prop :=
  (∀ s f i, s.inFlight = some f → f.wait = 0 → decode f.word = .ok i → step s = exec i s) ∧
  (∀ s u, HostTurnFrom s u → step s = .next (hostTurn u)) ∧
  (∀ s u, HostTurnFrom s u → s.host = [] → step s = .next u)

/-- R61: the register map, one number for each register, both ways, and the reserved numbers. -/
def Obligations.RegisterMapIsOneToOne : Prop :=
  (regNumber .cmd = 0x000 ∧ regNumber .status = 0x001 ∧ regNumber .charIn = 0x002 ∧ regNumber .payIn = 0x003 ∧
    regNumber .codeIn = 0x004 ∧ regNumber .res0 = 0x005 ∧ regNumber .res1 = 0x006 ∧ regNumber .outLen = 0x007) ∧
  (∀ i : Fin 16, (regNumber (.out i)).toNat = 0x010 + i.val) ∧
  (∀ i : Fin 20, (regNumber (.dig i)).toNat = 0x020 + i.val) ∧
  (∀ i : Fin 255, (regNumber (.inp i)).toNat = 0x100 + i.val) ∧
  (∀ g : Reg, regOfNumber (regNumber g) = some g) ∧
  (∀ r g, regOfNumber r = some g → regNumber g = r) ∧
  (∀ r, regOfNumber r = none ↔ ReservedNumber r)

/-- R27 to R31, R34, R35, R65, R265: a host write of an operand register keeps its meaningful bits, sets its written
mark, and changes nothing else, busy or not. -/
def Obligations.OperandWriteKeepsItsBitsAndMarksIt : Prop :=
  ∀ s u r v rest, HostTurnFrom s u → s.host = .wr r v :: rest →
    (r = 0x002 → step s = .next { u with host := rest, operands := { u.operands with charIn := ⟨v.setWidth 8, true⟩ } }) ∧
    (r = 0x003 → step s = .next { u with host := rest, operands := { u.operands with payIn := ⟨v.setWidth 24, true⟩ } }) ∧
    (r = 0x004 → step s = .next { u with host := rest, operands := { u.operands with codeIn := ⟨v.setWidth 26, true⟩ } }) ∧
    (∀ i : Fin 20, r = BitVec.ofNat 10 (0x020 + i.val) →
      step s = .next
        { u with host := rest, operands := { u.operands with dig := u.operands.dig.set i ⟨v.setWidth 8, true⟩ } }) ∧
    (∀ i : Fin 255, r = BitVec.ofNat 10 (0x100 + i.val) →
      step s = .next
        { u with host := rest, operands := { u.operands with inp := u.operands.inp.set i ⟨v.setWidth 8, true⟩ } })

/-- R27 to R31, R35, R65: a host read of a written operand register returns its kept bits zero-extended and has no side
effect; of an unwritten one it records UnwrittenRead (the value is free, and that nothing else changes is the model's
choice: log entry 7). -/
def Obligations.OperandReadReturnsTheKeptBits : Prop :=
  ∀ s u rest, HostTurnFrom s u →
    OperandReadRule s u rest 0x002 s.operands.charIn ∧ OperandReadRule s u rest 0x003 s.operands.payIn ∧
    OperandReadRule s u rest 0x004 s.operands.codeIn ∧
    (∀ i : Fin 20, OperandReadRule s u rest (BitVec.ofNat 10 (0x020 + i.val)) s.operands.dig[i]) ∧
    (∀ i : Fin 255, OperandReadRule s u rest (BitVec.ofNat 10 (0x100 + i.val)) s.operands.inp[i])

/-- R37, R263: a host read of a valid result register with BUSY = 0 returns it; any other read of a result register
records ResultNotValid (the value is free, and that nothing else changes is the model's choice: log entry 7). -/
def Obligations.ResultReadNeedsAValidRegister : Prop :=
  ∀ s u rest, HostTurnFrom s u →
    ResultReadRule s u rest 0x005 s.results.res0 ∧ ResultReadRule s u rest 0x006 s.results.res1 ∧
    ResultReadRule s u rest 0x007 s.results.outLen ∧
    (∀ i : Fin 16, ResultReadRule s u rest (BitVec.ofNat 10 (0x010 + i.val)) s.results.out[i])

/-- R25, R26: a read of STATUS is valid in every state, has no side effect, and returns CODE in bits 3:0 and BUSY at bit
4, zeros above. -/
def Obligations.StatusReadReturnsBusyAndCode : Prop :=
  ∀ s u rest, HostTurnFrom s u → s.host = .rd 0x001 :: rest →
    ∃ v : Word, ReadsPlainly s u rest v ∧ StatusValue s v

/-- R62: a host read or write of a reserved register number records ReservedAccess. What else the hardware does there is
unspecified and not stated. -/
def Obligations.ReservedNumberIsAProtocolFault : Prop :=
  ∀ s u r rest, HostTurnFrom s u → ReservedNumber r →
    (s.host = .rd r :: rest → ∃ t, step s = .next t ∧ t.faults = s.faults ++ [.reservedAccess]) ∧
    (∀ v, s.host = .wr r v :: rest → ∃ t, step s = .next t ∧ t.faults = s.faults ++ [.reservedAccess])

/-- R66: a host write of a read-only register, or a host read of CMD, records AccessViolation; the register is
unchanged. That nothing else of the state changes either (but the host's own list and the counter of free values), and
that the read returns a value at all, is the model's choice (log entries 7 and 10): R240 leaves the response open. -/
def Obligations.WrongAccessKindIsAProtocolFault : Prop :=
  ∀ s u rest, HostTurnFrom s u →
    (s.host = .rd 0x000 :: rest → ReadsFaultily s u rest .accessViolation) ∧
    (∀ r v, ReadOnlyNumber r → s.host = .wr r v :: rest →
      step s = .next { u with host := rest, faults := u.faults ++ [.accessViolation] })

/-- R36, R38, R25: a CMD write with BUSY = 0 puts the word in flight, sets BUSY and clears CODE, and leaves no result
valid; operand registers, faults and the observation stay. R267: the command's latency is the next one of the model's
schedule, where it lists one, which is the model's choice (log entry 2). -/
def Obligations.CmdWriteStartsTheCommand : Prop :=
  ∀ s w rest, s.inFlight = none → s.queued = [] → s.host = .wr 0x000 w :: rest →
    ∃ t f, step s = .next t ∧ t.inFlight = some f ∧ f.word = w ∧ t.code = none ∧ t.statusWord = 0x10 ∧
      t.results.NoneValid ∧ t.operands = s.operands ∧ t.faults = s.faults ∧ t.observed = s.observed ∧ t.host = rest ∧
      t.queued = [] ∧ t.params = s.params ∧ (∀ n ns, s.latencies = n :: ns → f.wait = n ∧ t.latencies = ns)

/-- R36, R92: the snapshot of a legal command holds exactly the operand registers the operation reads, with their written
marks. -/
def Obligations.SnapshotHoldsTheOperandsRead : Prop :=
  ∀ s w rest i, decode w = .ok i → s.inFlight = none → s.queued = [] → s.host = .wr 0x000 w :: rest →
    ∃ t f, step s = .next t ∧ t.inFlight = some f ∧
      Captured (i = .chcls ∨ i = .ch6) f.ops.charIn s.operands.charIn ∧
      Captured (i = .pargen) f.ops.payIn s.operands.payIn ∧ Captured (i = .parchk) f.ops.codeIn s.operands.codeIn ∧
      (∀ j : Fin 20, Captured (i = .w26enc true ∧ 17 ≤ j.val) f.ops.dig[j] s.operands.dig[j]) ∧
      (∀ j : Fin 255, Captured (∃ len, stringLen i = some len ∧ j.val < len) f.ops.inp[j] s.operands.inp[j])

/-- R240, R264: a CMD write while busy records CmdWhileBusy; operand registers, the observation and the parameters stay;
the command in flight, CODE and the results after it are free (what stays is the model's choice, log entry 9). -/
def Obligations.CmdWriteWhileBusyIsAProtocolFault : Prop :=
  ∀ s u f w rest, s.inFlight = some f → HostTurnFrom s u → s.host = .wr 0x000 w :: rest →
    ∃ t, step s = .next t ∧ t.faults = s.faults ++ [.cmdWhileBusy] ∧ t.operands = s.operands ∧
      t.observed = s.observed ∧ t.host = rest ∧ t.latencies = s.latencies ∧ t.params = s.params

/-- R35, R240: a command that reads an operand register whose written mark is false completes with UnwrittenOperand
recorded; its outcome and results are free (log entry 8); operand registers and everything of the host's stay. -/
def Obligations.UnwrittenOperandIsAProtocolFault : Prop :=
  ∀ s f i, s.inFlight = some f →
    ((i = .chcls ∨ i = .ch6) ∧ f.ops.charIn.mark = false ∨ i = .pargen ∧ f.ops.payIn.mark = false ∨
      i = .parchk ∧ f.ops.codeIn.mark = false ∨ i = .w26enc true ∧ ¬DigestReady f ∨
      ∃ len, stringLen i = some len ∧ ∃ j : Fin 255, j.val < len ∧ f.ops.inp[j].mark = false) →
    ∃ t, exec i s = .next t ∧ t.faults = s.faults ++ [.unwrittenOperand] ∧ t.inFlight = none ∧ t.code ≠ none ∧
      t.operands = s.operands ∧ t.observed = s.observed ∧ t.host = s.host ∧ t.queued = s.queued ∧
      t.latencies = s.latencies ∧ t.params = s.params

/-- R35, R36, R232, the frame of all commands: whatever its outcome, a command leaves every operand register, the
observation, the host's moves and the parameters as they are, ends with some outcome in CODE, records at most
UnwrittenOperand, and leaves OUT_LEN and OUT in the shape of a byte string (R33, R37: OUT_LEN at most 16, exactly the OUT
registers below it valid). For a command with an unwritten operand, that there is an outcome and that its free results
have that shape is the model's choice (log entry 8). -/
def Obligations.EveryCommandKeepsOperandsAndHost : Prop :=
  ∀ i s t, exec i s = .next t →
    t.operands = s.operands ∧ t.observed = s.observed ∧ t.host = s.host ∧ t.queued = s.queued ∧
      t.latencies = s.latencies ∧ t.params = s.params ∧ t.inFlight = none ∧ t.code ≠ none ∧
      (t.faults = s.faults ∨ t.faults = s.faults ++ [.unwrittenOperand]) ∧ t.results.OutShape

/-- R10, R241: no step takes a recorded protocol fault away, but a reset by the host. -/
def Obligations.FaultsAreNeverCleared : Prop :=
  ∀ s t, step s = .next t →
    s.faults <+: t.faults ∨ ∃ u rest, HostTurnFrom s u ∧ s.host = .reset :: rest

/-- R35, R261, R265: operand registers change only by a host write of an operand register or by reset. That a protocol
fault changes none is the model's choice where the spec leaves the response open (log entries 7 to 10). -/
def Obligations.OperandsChangeOnlyByHostWriteOrReset : Prop :=
  ∀ s t, step s = .next t →
    t.operands = s.operands ∨
    ∃ u rest, HostTurnFrom s u ∧ (s.host = .reset :: rest ∨ ∃ r v, OperandNumber r ∧ s.host = .wr r v :: rest)

/-- R41, R270: no step changes the parameters. -/
def Obligations.ParametersNeverChange : Prop := ∀ s t, step s = .next t → t.params = s.params

/-- R260, R261: a reset by the host leaves the state of R260 whatever was in flight; that the host's own moves and the
parameters stay is the model's reading (log entry 12). -/
def Obligations.HostResetDiscardsEverything : Prop :=
  ∀ s u rest, HostTurnFrom s u → s.host = .reset :: rest →
    ∃ t, step s = .next t ∧ t.inFlight = none ∧ t.statusWord = 0 ∧ t.faults = [] ∧ t.results.NoneValid ∧
      t.operands.charIn.mark = false ∧ t.operands.payIn.mark = false ∧ t.operands.codeIn.mark = false ∧
      (∀ i : Fin 20, t.operands.dig[i].mark = false) ∧ (∀ i : Fin 255, t.operands.inp[i].mark = false) ∧
      t.observed = [] ∧ t.queued = [] ∧ t.host = rest ∧ t.params = s.params

/-- R230, R267: a command in flight completes after finitely many steps, whatever the host does in the meantime but reset
and CMD writes: after its turns of waiting and one step more, BUSY is 0 and CODE holds an outcome. That the turns are
counted so is the model's choice (log entry 2), and an unwritten operand's outcome is log entry 8's. -/
def Obligations.CommandInFlightCompletes : Prop :=
  ∀ (s : State) f, s.inFlight = some f → (∀ m ∈ s.host, leavesFlight m = true) →
    ∃ t : State, Host.Core.run Sys2Proof.core (f.wait + 1) s = .next t ∧ t.busy = false ∧ t.code ≠ none

/-- R94, R25, R26: POLL reads STATUS: the value has CODE in bits 3:0, BUSY at bit 4 and zeros above; while its bit 4 is 1
POLL stays the host's next move, else the host goes on, and that last value's bits 3:0 are the outcome. -/
def Obligations.PollRepeatsWhileBusy : Prop :=
  ∀ s u rest, HostTurnFrom s u → s.host = .poll :: rest →
    ∃ v : Word, StatusValue s v ∧
      step s = .next { u with host := if v.getLsbD 4 then .poll :: rest else rest, observed := u.observed ++ [v] }

/-- R94: RDOUT with OUT_LEN valid and BUSY = 0 reads OUT_LEN and then has OUT[0] to OUT[OUT_LEN-1] still to read. R37,
R263: with OUT_LEN not valid, or while busy, its read of OUT_LEN records ResultNotValid and returns a free value, and
how many of OUT[0], OUT[1], ... it then reads is free, up to the sixteen there are; the bound and that nothing else
changes are the model's choice (log entries 7 and 15). -/
def Obligations.RdOutReadsTheByteString : Prop :=
  (∀ s rest, s.inFlight = none → s.queued = [] → s.host = .rdOut :: rest → s.results.outLen.mark = true →
    s.results.outLen.val.toNat ≤ 16 →
    step s = .next
      { s with host := outReadsOf s.results.outLen.val.toNat ++ rest,
               observed := s.observed ++ [s.results.outLen.val.setWidth 32] }) ∧
  (∀ s u rest, HostTurnFrom s u → s.host = .rdOut :: rest → s.results.outLen.mark = false ∨ s.busy = true →
    ∃ n, n ≤ 16 ∧ ReadsFaultily s u (outReadsOf n ++ rest) .resultNotValid)

/-- R94: LDSTR writes the bytes of a string, in order, into IN from IN[0] on, and LDDIG the twenty bytes of a digest into
DIG: every register so loaded is written and holds its byte; the other operand registers stay. -/
def Obligations.LdstrAndLddigFillTheBuffers : Prop :=
  ∀ (s : State) (x : List Byte) rest, s.inFlight = none → s.queued = [] →
    (x.length ≤ 255 → s.host = ldStr x ++ rest →
      ∃ t : State, Host.Core.run Sys2Proof.core x.length s = .next t ∧ t.host = rest ∧ t.faults = s.faults ∧
        (∀ i : Fin 255, ∀ b, x[i.val]? = some b → t.operands.inp[i] = ⟨b, true⟩) ∧
        (∀ i : Fin 255, x[i.val]? = none → t.operands.inp[i] = s.operands.inp[i]) ∧
        t.operands = { s.operands with inp := t.operands.inp }) ∧
    (x.length = 20 → s.host = ldDig x ++ rest →
      ∃ t : State, Host.Core.run Sys2Proof.core 20 s = .next t ∧ t.host = rest ∧ t.faults = s.faults ∧
        (∀ i : Fin 20, ∀ b, x[i.val]? = some b → t.operands.dig[i] = ⟨b, true⟩) ∧
        t.operands = { s.operands with dig := t.operands.dig })

/-! ## Outcomes of all commands -/

/-- R232: an outcome other than OK sets CODE, clears BUSY, makes no result register valid, and changes nothing else. -/
def Obligations.ErrorOutcomeLeavesNoResult : Prop :=
  ∀ i s f t c, s.inFlight = some f → operandsWritten i f.ops = true → exec i s = .next t → t.code = some c →
    c ≠ .ok → EndsWithout s t c

/-- R231, R234: which outcomes each operation can end with; CHCLS, CH6, PARGEN and PARCHK always end OK. -/
def Obligations.OutcomesOfEachOperation : Prop :=
  ∀ i s f, s.inFlight = some f → operandsWritten i f.ops = true →
    ∃ t c, exec i s = .next t ∧ t.code = some c ∧ c ∈ allowedOutcomes i

/-- R36: the completion is computed from the snapshot alone: two states with the same command in flight and the same
parameters get the same CODE and the same valid results. -/
def Obligations.CompletionDependsOnTheSnapshotAlone : Prop :=
  ∀ i s s' f, s.inFlight = some f → s'.inFlight = some f → s.params = s'.params → operandsWritten i f.ops = true →
    ∃ t t', exec i s = .next t ∧ exec i s' = .next t' ∧ t.code = t'.code ∧ t.results.Same t'.results

/-- R36, R92, R267: a well-formed command written to an idle block with latency zero completes at the second step, with
the CODE and the results that its operation gives on the operand registers themselves. That this is the second step rests
on how the model takes turns and settles latencies (log entries 1 and 2). -/
def Obligations.CommandRunsOnTheOperandRegisters : Prop :=
  ∀ s i rest ns, i.wellFormed = true → s.inFlight = none → s.queued = [] → s.latencies = 0 :: ns →
    s.host = .wr 0x000 (encode i) :: rest → operandsWritten i s.operands = true →
    ∃ t u v, step s = .next t ∧ step t = .next u ∧
      exec i { s with inFlight := some { word := encode i, ops := s.operands, wait := 0 } } = .next v ∧
      u.code = v.code ∧ u.results.Same v.results ∧ u.operands = s.operands ∧ u.faults = s.faults ∧ u.host = rest

/-! ## The operations -/

/-- R116: CHCLS. -/
def Obligations.ChclsClassifiesTheByte : Prop :=
  encode .chcls = 0x00000001 ∧
  ∀ s f, s.inFlight = some f → f.ops.charIn.mark = true →
    ∃ t b, exec .chcls s = .next t ∧ b = f.ops.charIn.val.toNat ∧ t.code = some .ok ∧ CompletionFrame s t ∧
      t.results.OnlyRes0 (BitVec.ofNat 32
        ((if b = 0x20 ∨ (0x30 ≤ b ∧ b ≤ 0x39) ∨ (0x41 ≤ b ∧ b ≤ 0x5A) then 2 ^ 10 else 0) +
         (if (0x30 ≤ b ∧ b ≤ 0x39) ∨ (0x41 ≤ b ∧ b ≤ 0x5A) ∨ (0x61 ≤ b ∧ b ≤ 0x7A) then 2 ^ 9 else 0) +
         (if f.ops.charIn.val ∈ s.params.ws then 2 ^ 8 else 0) +
         (if 0x61 ≤ b ∧ b ≤ 0x7A then b - 0x20 else b)))

/-- R208, R200: CH6. -/
def Obligations.Ch6LooksUpTheByte : Prop :=
  encode .ch6 = 0x00000002 ∧
  ∀ s f, s.inFlight = some f → f.ops.charIn.mark = true →
    ∃ t b, exec .ch6 s = .next t ∧ b = f.ops.charIn.val.toNat ∧ t.code = some .ok ∧ CompletionFrame s t ∧
      t.results.OnlyRes0 (BitVec.ofNat 32
        (if b = 0x20 then 0
         else if 0x30 ≤ b ∧ b ≤ 0x39 then b - 0x30 + 16
         else if 0x41 ≤ b ∧ b ≤ 0x5A then b - 0x41 + 26
         else 63))

/-- R114, R117: SAN26. -/
def Obligations.San26SanitizesThePlate : Prop :=
  (∀ present len, encode (.san26 present len) &&& 0xFFFE00FF = 0x00000010) ∧
  SanitizerRule .san26 fun p x => ((trim p x).map upper).filter isAlnum26

/-- R114, R118, R113: SAN64. -/
def Obligations.San64SanitizesThePlate : Prop :=
  (∀ present len, encode (.san64 present len) &&& 0xFFFE00FF = 0x00000011) ∧
  SanitizerRule .san64 fun p x =>
    if p.internalWs = .keep then (trim p x).map upper else ((trim p x).map upper).filter fun b => b ∉ p.ws

/-- R147, R140, R144: W26ENC, with the digest available and without. -/
def Obligations.W26encEncodesTheDigest : Prop :=
  encode (.w26enc true) = 0x00020020 ∧ encode (.w26enc false) = 0x00000020 ∧
  (∀ s f, s.inFlight = some f → ∃ t, exec (.w26enc false) s = .next t ∧ EndsWithout s t .digestUnavailable) ∧
  (∀ s f, s.inFlight = some f → DigestReady f →
    ∃ t c p, exec (.w26enc true) s = .next t ∧ p = payloadNumber f ∧ c = codeNumber p ∧ t.code = some .ok ∧
      CompletionFrame s t ∧ t.results.res0 = ⟨BitVec.ofNat 32 c, true⟩ ∧ t.results.res1 = ⟨BitVec.ofNat 32 p, true⟩ ∧
      t.results.HoldsText (hexText 7 c))

/-- R148, R144: PARGEN. -/
def Obligations.PargenAddsTheParityBits : Prop :=
  encode .pargen = 0x00000021 ∧
  ∀ s f, s.inFlight = some f → f.ops.payIn.mark = true →
    ∃ t c, exec .pargen s = .next t ∧ c = codeNumber f.ops.payIn.val.toNat ∧ t.code = some .ok ∧ CompletionFrame s t ∧
      t.results.res0 = ⟨BitVec.ofNat 32 c, true⟩ ∧ t.results.res1.mark = false ∧ t.results.HoldsText (hexText 7 c)

/-- R149, R145: PARCHK. -/
def Obligations.ParchkChecksBothFields : Prop :=
  encode .parchk = 0x00000022 ∧
  ∀ s f, s.inFlight = some f → f.ops.codeIn.mark = true →
    ∃ t c, exec .parchk s = .next t ∧ c = f.ops.codeIn.val ∧ t.code = some .ok ∧ CompletionFrame s t ∧
      t.results.OnlyRes0 (BitVec.ofNat 32
        (2 * (if popcount (c.extractLsb' 0 13) % 2 = 1 then 1 else 0) +
         (if popcount (c.extractLsb' 13 13) % 2 = 0 then 1 else 0)))

/-- R175, R173: W26DFC. -/
def Obligations.W26dfcDecodesTheFacilityCode : Prop :=
  (∀ present len, encode (.w26dfc present len) &&& 0xFFFE00FF = 0x00000030) ∧
  DecoderRule .w26dfc fun v => v / 2 ^ 17 % 2 ^ 8

/-- R176, R173: W26DID. -/
def Obligations.W26didDecodesTheIdNumber : Prop :=
  (∀ present len, encode (.w26did present len) &&& 0xFFFE00FF = 0x00000031) ∧
  DecoderRule .w26did fun v => v / 2 % 2 ^ 16

/-- R177, R173: W26DPL. -/
def Obligations.W26dplDecodesThePayload : Prop :=
  (∀ present len, encode (.w26dpl present len) &&& 0xFFFE00FF = 0x00000032) ∧
  DecoderRule .w26dpl fun v => v / 2 % 2 ^ 24

/-- R178, R173, R174: W26DCC. -/
def Obligations.W26dccDecodesTheConcatenation : Prop :=
  (∀ present len, encode (.w26dcc present len) &&& 0xFFFE00FF = 0x00000033) ∧
  DecoderRule .w26dcc fun v => v / 2 ^ 17 % 2 ^ 8 * 100000 + v / 2 % 2 ^ 16

/-- R209, R202 to R205: W64ENC. -/
def Obligations.W64encEncodesThePlate : Prop :=
  (∀ present len, encode (.w64enc present len) &&& 0xFFFE00FF = 0x00000040) ∧
  ∀ s f present len, s.inFlight = some f → InputReady present len f →
    ∃ t x w, exec (.w64enc present len) s = .next t ∧ x = sanitize64 s.params (inputString len f.ops) ∧ w = w64Number x ∧
      if present = false ∨ x = [] then EndsWithout s t .absent
      else if x.length > 10 then EndsWithout s t .invalidInput
      else t.code = some .ok ∧ CompletionFrame s t ∧ t.results.res0 = ⟨BitVec.ofNat 32 w, true⟩ ∧
        t.results.res1 = ⟨BitVec.ofNat 32 (w / 2 ^ 32), true⟩ ∧ t.results.HoldsText (hexText 16 w)

/-! ## Laws of the functions -/

/-- R83: the input string is IN[0], IN[1], ..., IN[LEN-1] in that order. -/
def Obligations.InputStringIsInZeroUpward : Prop :=
  ∀ (o : Operands) (len : Nat), len ≤ 255 →
    (inputString len o).length = len ∧ ∀ i : Fin 255, i.val < len → (inputString len o)[i.val]? = some o.inp[i].val

/-- R111: trimming takes off the longest prefix and the longest suffix of whitespace bytes, all of a blank string. -/
def Obligations.TrimTakesOffTheWhitespaceEnds : Prop :=
  ∀ (p : Params) (x : List Byte),
    (∃ a b, x = a ++ trim p x ++ b ∧ (∀ c ∈ a, c ∈ p.ws) ∧ ∀ c ∈ b, c ∈ p.ws) ∧
    (∀ c, (trim p x).head? = some c → c ∉ p.ws) ∧ (∀ c, (trim p x).getLast? = some c → c ∉ p.ws) ∧
    ((∀ c ∈ x, c ∈ p.ws) → trim p x = [])

/-- R115, the spec's own inference from R110 to R113, for every WS_SET that holds no letter or digit: trimming changes
nothing in either sanitizing function (the rule names only digits and uppercase letters; a WS_SET with a lowercase
letter would break it: log entry 22). -/
def Obligations.TrimChangesNothingInTheSanitizers : Prop :=
  ∀ (p : Params) (x : List Byte), (∀ b ∈ p.ws, isAlnum26 (upper b) = false) →
    sanitize26 p x = (x.map upper).filter isAlnum26 ∧
    (p.internalWs = .strip → sanitize64 p x = (x.map upper).filter fun b => b ∉ p.ws) ∧
    (∀ b, upper b ∈ p.ws ↔ b ∈ p.ws)

/-- R119, the spec's own inference from R112, R113 and R114: after SAN26 ends OK, OUT_LEN is 1 to 10 and every OUT byte
is a digit or uppercase letter; after SAN64 ends OK, OUT_LEN is 1 to 10, no OUT byte is a lowercase letter, and under
STRIP none is whitespace. -/
def Obligations.SanitizedPlateIsOfTheAlphabet : Prop :=
  ∀ s f present len, s.inFlight = some f → InputReady present len f →
    (∀ t, exec (.san26 present len) s = .next t → t.code = some .ok →
      1 ≤ t.results.outLen.val.toNat ∧ t.results.outLen.val.toNat ≤ 10 ∧
      ∀ i : Fin 16, i.val < t.results.outLen.val.toNat → IsSymbol36 t.results.out[i].val) ∧
    (∀ t, exec (.san64 present len) s = .next t → t.code = some .ok →
      1 ≤ t.results.outLen.val.toNat ∧ t.results.outLen.val.toNat ≤ 10 ∧
      ∀ i : Fin 16, i.val < t.results.outLen.val.toNat →
        ¬(0x61 ≤ t.results.out[i].val.toNat ∧ t.results.out[i].val.toNat ≤ 0x7A) ∧
        (s.params.internalWs = .strip → t.results.out[i].val ∉ s.params.ws))

/-- R12: the k-digit rendering of v < 16^k has k digits, the most significant first: byte i is that of the digit of
weight 16^(k-1-i), '0'+d for d up to 9 and 'A'+(d-10) above; it reads back as v (R170). -/
def Obligations.HexTextReadsBack : Prop :=
  ∀ (p : Params) (k v : Nat), v < 16 ^ k →
    (hexText k v).length = k ∧
    (∀ i d, i < k → d = v / 16 ^ (k - 1 - i) % 16 →
      (hexText k v)[i]? = some (BitVec.ofNat 8 (if d ≤ 9 then 0x30 + d else 0x41 + (d - 10)))) ∧
    ∃ ds : List Nat, (hexText k v).map (hexVal p) = ds.map some ∧ Nat.ofDigits 16 ds.reverse = v

/-- R150, the spec's own inference from R144 and R145: the laws of the parity generator and checker. The
word that R141 to R143 compute has bits 31:26 zero (R144), so it is below 2^26 and its 26 low bits are the code. -/
def Obligations.ParityLaws : Prop :=
  (∀ p : Payload, setOddParity (setEvenParity (shiftPayload p)) = (pargen p).setWidth 32 ∧
    (setOddParity (setEvenParity (shiftPayload p))).toNat < 2 ^ 26 ∧ (pargen p).extractLsb' 1 24 = p ∧ evenOk (pargen p) = true ∧
    oddOk (pargen p) = true) ∧
  (∀ p q : Payload, pargen p = pargen q → p = q) ∧
  (∀ c : Code26, (evenOk c = true ∧ oddOk c = true) ↔ c = pargen (c.extractLsb' 1 24)) ∧
  (∀ o o' : Operands, (∀ i : Fin 20, o.dig[i].val = o'.dig[i].val) → encode26 o = encode26 o')

/-- R174, the spec's own inference from R173 and the decimal definition it quotes: the concatenation is the decimal
numeral of the facility code followed by the ID number in five digits; it is at most 25565535, and the ID number alone
when the facility code is 0. -/
def Obligations.ConcatenationIsTheDecimalReading : Prop :=
  ∀ c : Code26,
    concatenation c = Nat.ofDigits 10
      (Nat.digits 10 (idNumber c).toNat ++ List.replicate (5 - (Nat.digits 10 (idNumber c).toNat).length) 0 ++
        Nat.digits 10 (facilityCode c).toNat) ∧
    concatenation c = (facilityCode c).toNat * 100000 + (idNumber c).toNat ∧ concatenation c ≤ 25565535 ∧
    concatenation c < 2 ^ 25 ∧ ((facilityCode c).toNat = 0 → concatenation c = (idNumber c).toNat)

/-- R180, the spec's own inference from R140, R144, R146 and R170 to R174: the text W26ENC gives for a digest,
presented to the decoder, gives back the digest's bytes: DIG[17] as facility code, DIG[18] and DIG[19] as ID number,
all three as payload (for a WS_SET that holds no hexadecimal digit). -/
def Obligations.DecodingAnEncodedDigestRecoversIt : Prop :=
  ∀ s f t s' f', s.inFlight = some f → DigestReady f → exec (.w26enc true) s = .next t →
    s'.inFlight = some f' → (∀ i : Fin 7, f'.ops.inp[i.val] = ⟨t.results.out[i.val].val, true⟩) →
    (∀ b ∈ s'.params.ws, hexVal s'.params b = none) →
    ∃ u1 u2 u3 u4,
      exec (.w26dfc true 7) s' = .next u1 ∧ u1.code = some .ok ∧
        u1.results.OnlyRes0 (BitVec.ofNat 32 f.ops.dig[17].val.toNat) ∧
      exec (.w26did true 7) s' = .next u2 ∧ u2.code = some .ok ∧
        u2.results.OnlyRes0 (BitVec.ofNat 32 (f.ops.dig[18].val.toNat * 2 ^ 8 + f.ops.dig[19].val.toNat)) ∧
      exec (.w26dpl true 7) s' = .next u3 ∧ u3.code = some .ok ∧
        u3.results.OnlyRes0 (BitVec.ofNat 32 (payloadNumber f)) ∧
      exec (.w26dcc true 7) s' = .next u4 ∧ u4.code = some .ok ∧
        u4.results.OnlyRes0 (BitVec.ofNat 32
          (f.ops.dig[17].val.toNat * 100000 + (f.ops.dig[18].val.toNat * 2 ^ 8 + f.ops.dig[19].val.toNat)))

/-- R201, the spec's own inference from R200: codes 1..15 and 52..62 are never produced, 63 is produced by every byte
outside the 37 symbols and by two bytes at least, and code6 is a bijection between the 37 symbols and 0, 16..51. -/
def Obligations.CodeTableIsABijectionOnTheSymbols : Prop :=
  (∀ b : Byte, (code6 b).toNat = 0 ∨ (16 ≤ (code6 b).toNat ∧ (code6 b).toNat ≤ 51) ∨ (code6 b).toNat = 63) ∧
  (∀ b : Byte, code6 b = 63 ↔ ¬(b = 0x20 ∨ IsSymbol36 b)) ∧
  (∀ b c : Byte, code6 b ≠ 63 → code6 b = code6 c → b = c) ∧
  (∀ n : Nat, n = 0 ∨ (16 ≤ n ∧ n ≤ 51) → ∃ b : Byte, code6 b = BitVec.ofNat 6 n) ∧
  (∃ b c : Byte, b ≠ c ∧ code6 b = 63 ∧ code6 c = 63)

/-- R203, R204 (and R206, the spec's own inference from them): lane i of the Wiegand64 code, at bits (59 - 6i) down to
(54 - 6i), is the 6-bit code of byte i of the padded plate; bits 63:60 are 0110. -/
def Obligations.Wiegand64LanesAreTheCharacterCodes : Prop :=
  ∀ t : List Byte, 1 ≤ t.length → t.length ≤ 10 →
    (w64 t).extractLsb' 60 4 = 0b0110 ∧ (pad10 t).length = 10 ∧
    ∀ i : Nat, i ≤ 9 → ∀ b : Byte, (pad10 t)[i]? = some b → (w64 t).extractLsb' (54 - 6 * i) 6 = code6 b

/-- R207, the spec's own inference from R204: the most-significant digit is '6' for every code, so the natural-width
rendering has sixteen digits and equals hex16; the value is below 2^63. -/
def Obligations.Wiegand64HasSixteenNaturalDigits : Prop :=
  ∀ t : List Byte, 1 ≤ t.length → t.length ≤ 10 →
    16 ^ 15 ≤ (w64 t).toNat ∧ (w64 t).toNat < 2 ^ 63 ∧ (Nat.digits 16 (w64 t).toNat).length = 16 ∧
    hex16 (w64 t) = (Nat.digits 16 (w64 t).toNat).reverse.map hexDigit ∧ (hex16 (w64 t)).head? = some 0x36

/-- R210, the spec's own inference from R113, R200, R202 and R203: under STRIP, two plates that sanitize to strings
over the 36 symbols give equal codes only when the sanitized strings are equal; escape bytes break this. -/
def Obligations.Wiegand64IsInjectiveOnSymbols : Prop :=
  (∀ (p : Params) (x y : List Byte), p.internalWs = .strip →
    (∀ b ∈ sanitize64 p x, IsSymbol36 b) → (∀ b ∈ sanitize64 p y, IsSymbol36 b) →
    1 ≤ (sanitize64 p x).length → (sanitize64 p x).length ≤ 10 → 1 ≤ (sanitize64 p y).length →
    (sanitize64 p y).length ≤ 10 → w64 (sanitize64 p x) = w64 (sanitize64 p y) → sanitize64 p x = sanitize64 p y) ∧
  w64 (sanitize64 Params.default [0x31, 0x2D, 0x41, 0x42, 0x43, 0x2D, 0x31, 0x32, 0x33]) =
    w64 (sanitize64 Params.default [0x31, 0x2B, 0x41, 0x42, 0x43, 0x2B, 0x31, 0x32, 0x33])

/-- R170: the digit value of a byte, lowercase digits exactly under HEX_LOWER_OK, no other byte having one; and the
parse: no value for null, blank or malformed text, else the sum of the digits by their weights, the first byte most
significant. -/
def Obligations.HexparseReadsTheText : Prop :=
  (∀ (p : Params) (b : Byte),
    (0x30 ≤ b.toNat ∧ b.toNat ≤ 0x39 → hexVal p b = some (b.toNat - 0x30)) ∧
    (0x41 ≤ b.toNat ∧ b.toNat ≤ 0x46 → hexVal p b = some (b.toNat - 0x41 + 10)) ∧
    (0x61 ≤ b.toNat ∧ b.toNat ≤ 0x66 → p.hexLowerOk = true → hexVal p b = some (b.toNat - 0x61 + 10)) ∧
    (0x61 ≤ b.toNat ∧ b.toNat ≤ 0x66 → p.hexLowerOk = false → hexVal p b = none) ∧
    (¬(0x30 ≤ b.toNat ∧ b.toNat ≤ 0x39) ∧ ¬(0x41 ≤ b.toNat ∧ b.toNat ≤ 0x46) ∧ ¬(0x61 ≤ b.toNat ∧ b.toNat ≤ 0x66) →
      hexVal p b = none)) ∧
  (∀ (p : Params) (x : List Byte),
    hexParse p false x = none ∧ ((∀ b ∈ x, b ∈ p.ws) → hexParse p true x = none) ∧
    ((∃ b ∈ x, hexVal p b = none) → hexParse p true x = none) ∧
    ∀ d : Nat → Nat, (∃ b ∈ x, b ∉ p.ws) → (∀ i b, x[i]? = some b → hexVal p b = some (d i)) →
      hexParse p true x = some (∑ i ∈ Finset.range x.length, d i * 16 ^ (x.length - 1 - i)))
end

