-- ==== Sys2Proof/Laws/Encoding.lean ====
section
/-! SUPPORT. The fields of a command word built from its parts (R81). -/

namespace Sys2Proof

@[simp] theorem opField_commandWord (op : Byte) (len : Nat) (p h : Bool) : opField (commandWord op len p h) = op := by
  apply BitVec.eq_of_getLsbD_eq
  intro i hi
  simp only [opField, commandWord, bitAt]
  interval_cases i <;> simp

@[simp] theorem reservedField_commandWord (op : Byte) (len : Nat) (p h : Bool) :
    reservedField (commandWord op len p h) = 0 := by
  apply BitVec.eq_of_getLsbD_eq
  intro i hi
  simp only [reservedField, commandWord, bitAt]
  interval_cases i <;> simp

@[simp] theorem presentField_commandWord (op : Byte) (len : Nat) (p h : Bool) :
    presentField (commandWord op len p h) = p := by simp [presentField, commandWord, bitAt]

@[simp] theorem hashOkField_commandWord (op : Byte) (len : Nat) (p h : Bool) :
    hashOkField (commandWord op len p h) = h := by simp [hashOkField, commandWord, bitAt]

@[simp] theorem lenField_commandWord (op : Byte) (len : Nat) (p h : Bool) :
    lenField (commandWord op len p h) = len % 256 := by
  have e : (commandWord op len p h).extractLsb' 8 8 = BitVec.ofNat 8 len := by
    apply BitVec.eq_of_getLsbD_eq
    intro i hi
    simp only [commandWord, bitAt]
    interval_cases i <;> simp
  simp [lenField, e]

end Sys2Proof
end

