-- ==== Sys2Proof/Laws/State.lean ====
section
/-! SUPPORT. The fields of the state after each named update: one lemma per field per update, so that no later proof
unfolds a record update. -/

namespace Sys2Proof.Machine

/-! ## State.record -/

@[simp] theorem State.record_operands (s : State) (f : ProtocolFault) :
    (s.record f).operands = s.operands := rfl
@[simp] theorem State.record_inFlight (s : State) (f : ProtocolFault) :
    (s.record f).inFlight = s.inFlight := rfl
@[simp] theorem State.record_code (s : State) (f : ProtocolFault) :
    (s.record f).code = s.code := rfl
@[simp] theorem State.record_results (s : State) (f : ProtocolFault) :
    (s.record f).results = s.results := rfl
@[simp] theorem State.record_faults (s : State) (f : ProtocolFault) :
    (s.record f).faults = s.faults ++ [f] := rfl
@[simp] theorem State.record_observed (s : State) (f : ProtocolFault) :
    (s.record f).observed = s.observed := rfl
@[simp] theorem State.record_host (s : State) (f : ProtocolFault) :
    (s.record f).host = s.host := rfl
@[simp] theorem State.record_queued (s : State) (f : ProtocolFault) :
    (s.record f).queued = s.queued := rfl
@[simp] theorem State.record_latencies (s : State) (f : ProtocolFault) :
    (s.record f).latencies = s.latencies := rfl
@[simp] theorem State.record_fresh (s : State) (f : ProtocolFault) :
    (s.record f).fresh = s.fresh := rfl
@[simp] theorem State.record_params (s : State) (f : ProtocolFault) :
    (s.record f).params = s.params := rfl

/-! ## State.complete -/

@[simp] theorem State.complete_operands (s : State) (c : Completion) :
    (s.complete c).operands = s.operands := rfl
@[simp] theorem State.complete_inFlight (s : State) (c : Completion) :
    (s.complete c).inFlight = none := rfl
@[simp] theorem State.complete_code (s : State) (c : Completion) :
    (s.complete c).code = some c.outcome := rfl
@[simp] theorem State.complete_results (s : State) (c : Completion) :
    (s.complete c).results = s.results.publish c.results := rfl
@[simp] theorem State.complete_faults (s : State) (c : Completion) :
    (s.complete c).faults = s.faults := rfl
@[simp] theorem State.complete_observed (s : State) (c : Completion) :
    (s.complete c).observed = s.observed := rfl
@[simp] theorem State.complete_host (s : State) (c : Completion) :
    (s.complete c).host = s.host := rfl
@[simp] theorem State.complete_queued (s : State) (c : Completion) :
    (s.complete c).queued = s.queued := rfl
@[simp] theorem State.complete_latencies (s : State) (c : Completion) :
    (s.complete c).latencies = s.latencies := rfl
@[simp] theorem State.complete_fresh (s : State) (c : Completion) :
    (s.complete c).fresh = s.fresh := rfl
@[simp] theorem State.complete_params (s : State) (c : Completion) :
    (s.complete c).params = s.params := rfl

/-! ## State.completeFree -/

@[simp] theorem State.completeFree_operands (s : State) :
    s.completeFree.operands = s.operands := rfl
@[simp] theorem State.completeFree_inFlight (s : State) :
    s.completeFree.inFlight = none := rfl
@[simp] theorem State.completeFree_code (s : State) :
    s.completeFree.code = some (Config.freeCompletion s.fresh).outcome := rfl
@[simp] theorem State.completeFree_results (s : State) :
    s.completeFree.results = s.results.publish (Config.freeCompletion s.fresh).results := rfl
@[simp] theorem State.completeFree_faults (s : State) :
    s.completeFree.faults = s.faults ++ [.unwrittenOperand] := rfl
@[simp] theorem State.completeFree_observed (s : State) :
    s.completeFree.observed = s.observed := rfl
@[simp] theorem State.completeFree_host (s : State) :
    s.completeFree.host = s.host := rfl
@[simp] theorem State.completeFree_queued (s : State) :
    s.completeFree.queued = s.queued := rfl
@[simp] theorem State.completeFree_latencies (s : State) :
    s.completeFree.latencies = s.latencies := rfl
@[simp] theorem State.completeFree_fresh (s : State) :
    s.completeFree.fresh = s.fresh + 1 := rfl
@[simp] theorem State.completeFree_params (s : State) :
    s.completeFree.params = s.params := rfl

/-! ## State.completeIllegal -/

@[simp] theorem State.completeIllegal_operands (s : State) :
    s.completeIllegal.operands = s.operands := rfl
@[simp] theorem State.completeIllegal_inFlight (s : State) :
    s.completeIllegal.inFlight = none := rfl
@[simp] theorem State.completeIllegal_code (s : State) :
    s.completeIllegal.code = some .illegalCmd := rfl
@[simp] theorem State.completeIllegal_results (s : State) :
    s.completeIllegal.results = s.results.invalidate := rfl
@[simp] theorem State.completeIllegal_faults (s : State) :
    s.completeIllegal.faults = s.faults := rfl
@[simp] theorem State.completeIllegal_observed (s : State) :
    s.completeIllegal.observed = s.observed := rfl
@[simp] theorem State.completeIllegal_host (s : State) :
    s.completeIllegal.host = s.host := rfl
@[simp] theorem State.completeIllegal_queued (s : State) :
    s.completeIllegal.queued = s.queued := rfl
@[simp] theorem State.completeIllegal_latencies (s : State) :
    s.completeIllegal.latencies = s.latencies := rfl
@[simp] theorem State.completeIllegal_fresh (s : State) :
    s.completeIllegal.fresh = s.fresh := rfl
@[simp] theorem State.completeIllegal_params (s : State) :
    s.completeIllegal.params = s.params := rfl

/-! ## State.start -/

@[simp] theorem State.start_operands (s : State) (w : Word) (n : Nat) :
    (s.start w n).operands = s.operands := rfl
@[simp] theorem State.start_inFlight (s : State) (w : Word) (n : Nat) :
    (s.start w n).inFlight = some ⟨w, captureWord w s.operands, n⟩ := rfl
@[simp] theorem State.start_code (s : State) (w : Word) (n : Nat) :
    (s.start w n).code = none := rfl
@[simp] theorem State.start_results (s : State) (w : Word) (n : Nat) :
    (s.start w n).results = s.results.invalidate := rfl
@[simp] theorem State.start_faults (s : State) (w : Word) (n : Nat) :
    (s.start w n).faults = s.faults := rfl
@[simp] theorem State.start_observed (s : State) (w : Word) (n : Nat) :
    (s.start w n).observed = s.observed := rfl
@[simp] theorem State.start_host (s : State) (w : Word) (n : Nat) :
    (s.start w n).host = s.host := rfl
@[simp] theorem State.start_queued (s : State) (w : Word) (n : Nat) :
    (s.start w n).queued = s.queued := rfl
@[simp] theorem State.start_latencies (s : State) (w : Word) (n : Nat) :
    (s.start w n).latencies = s.latencies := rfl
@[simp] theorem State.start_fresh (s : State) (w : Word) (n : Nat) :
    (s.start w n).fresh = s.fresh := rfl
@[simp] theorem State.start_params (s : State) (w : Word) (n : Nat) :
    (s.start w n).params = s.params := rfl

/-! ## State.startNext -/

@[simp] theorem State.startNext_operands (s : State) (w : Word) :
    (s.startNext w).operands = s.operands := rfl
@[simp] theorem State.startNext_inFlight (s : State) (w : Word) :
    (s.startNext w).inFlight = some ⟨w, captureWord w s.operands, s.nextLatency⟩ := rfl
@[simp] theorem State.startNext_code (s : State) (w : Word) :
    (s.startNext w).code = none := rfl
@[simp] theorem State.startNext_results (s : State) (w : Word) :
    (s.startNext w).results = s.results.invalidate := rfl
@[simp] theorem State.startNext_faults (s : State) (w : Word) :
    (s.startNext w).faults = s.faults := rfl
@[simp] theorem State.startNext_observed (s : State) (w : Word) :
    (s.startNext w).observed = s.observed := rfl
@[simp] theorem State.startNext_host (s : State) (w : Word) :
    (s.startNext w).host = s.host := rfl
@[simp] theorem State.startNext_queued (s : State) (w : Word) :
    (s.startNext w).queued = s.queued := rfl
@[simp] theorem State.startNext_latencies (s : State) (w : Word) :
    (s.startNext w).latencies = s.latencies.tail := rfl
@[simp] theorem State.startNext_fresh (s : State) (w : Word) :
    (s.startNext w).fresh = s.fresh + 1 := rfl
@[simp] theorem State.startNext_params (s : State) (w : Word) :
    (s.startNext w).params = s.params := rfl

/-! ## State.startQueued -/

@[simp] theorem State.startQueued_operands (s : State) (f : InFlight) (rest : List InFlight) :
    (s.startQueued f rest).operands = s.operands := rfl
@[simp] theorem State.startQueued_inFlight (s : State) (f : InFlight) (rest : List InFlight) :
    (s.startQueued f rest).inFlight = some f := rfl
@[simp] theorem State.startQueued_code (s : State) (f : InFlight) (rest : List InFlight) :
    (s.startQueued f rest).code = none := rfl
@[simp] theorem State.startQueued_results (s : State) (f : InFlight) (rest : List InFlight) :
    (s.startQueued f rest).results = s.results.invalidate := rfl
@[simp] theorem State.startQueued_faults (s : State) (f : InFlight) (rest : List InFlight) :
    (s.startQueued f rest).faults = s.faults := rfl
@[simp] theorem State.startQueued_observed (s : State) (f : InFlight) (rest : List InFlight) :
    (s.startQueued f rest).observed = s.observed := rfl
@[simp] theorem State.startQueued_host (s : State) (f : InFlight) (rest : List InFlight) :
    (s.startQueued f rest).host = s.host := rfl
@[simp] theorem State.startQueued_queued (s : State) (f : InFlight) (rest : List InFlight) :
    (s.startQueued f rest).queued = rest := rfl
@[simp] theorem State.startQueued_latencies (s : State) (f : InFlight) (rest : List InFlight) :
    (s.startQueued f rest).latencies = s.latencies := rfl
@[simp] theorem State.startQueued_fresh (s : State) (f : InFlight) (rest : List InFlight) :
    (s.startQueued f rest).fresh = s.fresh := rfl
@[simp] theorem State.startQueued_params (s : State) (f : InFlight) (rest : List InFlight) :
    (s.startQueued f rest).params = s.params := rfl

/-! ## State.faultyRead -/

@[simp] theorem State.faultyRead_operands (s : State) (f : ProtocolFault) :
    (s.faultyRead f).2.operands = s.operands := rfl
@[simp] theorem State.faultyRead_inFlight (s : State) (f : ProtocolFault) :
    (s.faultyRead f).2.inFlight = s.inFlight := rfl
@[simp] theorem State.faultyRead_code (s : State) (f : ProtocolFault) :
    (s.faultyRead f).2.code = s.code := rfl
@[simp] theorem State.faultyRead_results (s : State) (f : ProtocolFault) :
    (s.faultyRead f).2.results = s.results := rfl
@[simp] theorem State.faultyRead_faults (s : State) (f : ProtocolFault) :
    (s.faultyRead f).2.faults = s.faults ++ [f] := rfl
@[simp] theorem State.faultyRead_observed (s : State) (f : ProtocolFault) :
    (s.faultyRead f).2.observed = s.observed := rfl
@[simp] theorem State.faultyRead_host (s : State) (f : ProtocolFault) :
    (s.faultyRead f).2.host = s.host := rfl
@[simp] theorem State.faultyRead_queued (s : State) (f : ProtocolFault) :
    (s.faultyRead f).2.queued = s.queued := rfl
@[simp] theorem State.faultyRead_latencies (s : State) (f : ProtocolFault) :
    (s.faultyRead f).2.latencies = s.latencies := rfl
@[simp] theorem State.faultyRead_fresh (s : State) (f : ProtocolFault) :
    (s.faultyRead f).2.fresh = s.fresh + 1 := rfl
@[simp] theorem State.faultyRead_params (s : State) (f : ProtocolFault) :
    (s.faultyRead f).2.params = s.params := rfl

/-! ## State.hostReset -/

@[simp] theorem State.hostReset_operands (s : State) :
    s.hostReset.operands = Operands.unwritten := rfl
@[simp] theorem State.hostReset_inFlight (s : State) :
    s.hostReset.inFlight = none := rfl
@[simp] theorem State.hostReset_code (s : State) :
    s.hostReset.code = none := rfl
@[simp] theorem State.hostReset_results (s : State) :
    s.hostReset.results = ResultRegs.invalid := rfl
@[simp] theorem State.hostReset_faults (s : State) :
    s.hostReset.faults = [] := rfl
@[simp] theorem State.hostReset_observed (s : State) :
    s.hostReset.observed = [] := rfl
@[simp] theorem State.hostReset_host (s : State) :
    s.hostReset.host = s.host := rfl
@[simp] theorem State.hostReset_queued (s : State) :
    s.hostReset.queued = [] := rfl
@[simp] theorem State.hostReset_latencies (s : State) :
    s.hostReset.latencies = s.latencies := rfl
@[simp] theorem State.hostReset_fresh (s : State) :
    s.hostReset.fresh = s.fresh := rfl
@[simp] theorem State.hostReset_params (s : State) :
    s.hostReset.params = s.params := rfl

/-! ## observe -/

@[simp] theorem observe_operands (r : Word × State) : (observe r).operands = r.2.operands := rfl
@[simp] theorem observe_inFlight (r : Word × State) : (observe r).inFlight = r.2.inFlight := rfl
@[simp] theorem observe_code (r : Word × State) : (observe r).code = r.2.code := rfl
@[simp] theorem observe_results (r : Word × State) : (observe r).results = r.2.results := rfl
@[simp] theorem observe_faults (r : Word × State) : (observe r).faults = r.2.faults := rfl
@[simp] theorem observe_observed (r : Word × State) : (observe r).observed = r.2.observed ++ [r.1] := rfl
@[simp] theorem observe_host (r : Word × State) : (observe r).host = r.2.host := rfl
@[simp] theorem observe_queued (r : Word × State) : (observe r).queued = r.2.queued := rfl
@[simp] theorem observe_latencies (r : Word × State) : (observe r).latencies = r.2.latencies := rfl
@[simp] theorem observe_fresh (r : Word × State) : (observe r).fresh = r.2.fresh := rfl
@[simp] theorem observe_params (r : Word × State) : (observe r).params = r.2.params := rfl

end Sys2Proof.Machine
end

