-- ==== Sys2Proof/Laws/Ops.lean ====
section
/-! SUPPORT. What each shared operation can do, once: result registers, completion, reads, writes, host moves, step. -/

namespace Sys2Proof.Machine

/-! ## Result registers -/

@[simp] theorem Marked.load_some {w : Nat} (m : Marked w) (v : BitVec w) : m.load (some v) = ⟨v, true⟩ := rfl
@[simp] theorem Marked.load_none_mark {w : Nat} (m : Marked w) : (m.load none).mark = false := rfl

theorem Marked.load_mark {w : Nat} (m : Marked w) (o : Option (BitVec w)) : (m.load o).mark = o.isSome := by
  cases o <;> rfl

@[simp] theorem ResultRegs.publish_res0 (r : ResultRegs) (q : Results) : (r.publish q).res0 = r.res0.load q.res0 := rfl
@[simp] theorem ResultRegs.publish_res1 (r : ResultRegs) (q : Results) : (r.publish q).res1 = r.res1.load q.res1 := rfl

theorem ResultRegs.publish_out (r : ResultRegs) (q : Results) (i : Fin 16) :
    (r.publish q).out[i] = r.out[i].load (q.out.bind fun b => b[i.val]?) := by
  simp [ResultRegs.publish]

theorem ResultRegs.publish_noneValid {r : ResultRegs} {q : Results} (h : q = noResults) :
    (r.publish q).NoneValid := by
  subst h
  refine ⟨rfl, rfl, rfl, fun i => ?_⟩
  rw [ResultRegs.publish_out]; rfl

theorem ResultRegs.invalidate_noneValid (r : ResultRegs) : r.invalidate.NoneValid :=
  ResultRegs.publish_noneValid rfl

theorem ResultRegs.invalid_noneValid : ResultRegs.invalid.NoneValid := by
  refine ⟨rfl, rfl, rfl, fun i => ?_⟩
  simp [ResultRegs.invalid, Marked.unset]

theorem ResultRegs.NoneValid.outShape {r : ResultRegs} (h : r.NoneValid) : r.OutShape := by
  obtain ⟨-, -, h2, h3⟩ := h
  refine ⟨fun c => by simp [h2] at c, fun i => ?_⟩
  rw [h3 i, h2]; simp

theorem ResultRegs.publish_outLen_some {r : ResultRegs} {q : Results} {t : List Byte} (h : q.out = some t) :
    (r.publish q).outLen.mark = true ∧ (r.publish q).outLen.val.toNat = min 16 t.length := by
  have e : (r.publish q).outLen = ⟨BitVec.ofNat 5 (t.take 16).length, true⟩ := by simp [ResultRegs.publish, h]
  rw [e]
  refine ⟨rfl, ?_⟩
  simp only [BitVec.toNat_ofNat, List.length_take]
  omega

theorem ResultRegs.publish_outLen_none {r : ResultRegs} {q : Results} (h : q.out = none) :
    (r.publish q).outLen.mark = false := by simp [ResultRegs.publish, h]

theorem ResultRegs.publish_outShape (r : ResultRegs) (q : Results) : (r.publish q).OutShape := by
  cases h : q.out with
  | none =>
    have h0 := ResultRegs.publish_outLen_none (r := r) h
    refine ⟨fun c => by simp [h0] at c, fun i => ?_⟩
    rw [ResultRegs.publish_out, h0, h]
    simp
  | some t =>
    obtain ⟨hm, hl⟩ := ResultRegs.publish_outLen_some (r := r) h
    refine ⟨fun _ => by omega, fun i => ?_⟩
    rw [ResultRegs.publish_out, hm, hl, h, Marked.load_mark]
    have := i.isLt
    simp only [Option.bind_some, Option.isSome_iff_ne_none, ne_eq, List.getElem?_eq_none_iff, true_and]
    omega

theorem ResultRegs.publish_holdsText {r : ResultRegs} {q : Results} {t : List Byte} (h : q.out = some t)
    (hl : t.length ≤ 16) : (r.publish q).HoldsText t := by
  obtain ⟨hm, hn⟩ := ResultRegs.publish_outLen_some (r := r) h
  refine ⟨hm, by omega, fun i => ⟨fun hi => ?_, fun hi => ?_⟩⟩
  · rw [ResultRegs.publish_out, h]; simp [hi]
  · rw [ResultRegs.publish_out, h]; simp [List.getElem?_eq_none hi]

theorem ResultRegs.publish_onlyRes0 (r : ResultRegs) (v : Word) : (r.publish (finishRes0 v).results).OnlyRes0 v := by
  refine ⟨rfl, rfl, rfl, fun i => ?_⟩
  rw [ResultRegs.publish_out]; rfl

theorem validOne_load {w : Nat} (g : Reg) (m m' : Marked w) (o : Option (BitVec w)) :
    validOne g (m.load o) = validOne g (m'.load o) := by cases o <;> rfl

/-- Publishing the same results makes two banks the host cannot tell apart. -/
theorem ResultRegs.publish_same (r r' : ResultRegs) (q : Results) : (r.publish q).Same (r'.publish q) := by
  have out : ∀ i : Fin 16, validOne (.out i) (r.publish q).out[i] = validOne (.out i) (r'.publish q).out[i] := by
    intro i
    rw [ResultRegs.publish_out, ResultRegs.publish_out]
    exact validOne_load ..
  have len : validOne .outLen (r.publish q).outLen = validOne .outLen (r'.publish q).outLen := validOne_load ..
  simp only [ResultRegs.Same, ResultRegs.valid, out, len, ResultRegs.publish_res0, ResultRegs.publish_res1]
  rw [validOne_load _ r.res0 r'.res0, validOne_load _ r.res1 r'.res1]

/-! ## Completion -/

theorem completeWith_written {i : Instr} {op : Params → Operands → Completion} {s : State} {f : InFlight}
    (hf : s.inFlight = some f) (hw : operandsWritten i f.ops = true) :
    completeWith i op s = .next (s.complete (op s.params f.ops)) := by
  simp [completeWith, hf, hw]

theorem completeWith_unwritten {i : Instr} {op : Params → Operands → Completion} {s : State} {f : InFlight}
    (hf : s.inFlight = some f) (hw : operandsWritten i f.ops = false) :
    completeWith i op s = .next s.completeFree := by
  simp [completeWith, hf, hw]

theorem completeWith_idle {i : Instr} {op : Params → Operands → Completion} {s : State} (hf : s.inFlight = none) :
    completeWith i op s = .fault .noCommandInFlight := by
  simp [completeWith, hf]

/-- The completion of each command, as a function of the parameters and the captured operands. -/
def completionOf : Instr → Params → Operands → Completion
  | .chcls, p, o => finishRes0 (classWord p o.charIn.val)
  | .ch6, _, o => finishRes0 ((code6 o.charIn.val).setWidth 32)
  | .san26 present len, p, o => ofSanitized finishOut (sanitizeOutcome (sanitize26 p) present (inputString len o))
  | .san64 present len, p, o => ofSanitized finishOut (sanitizeOutcome (sanitize64 p) present (inputString len o))
  | .w26enc hashOk, _, o => if hashOk then encode26 o else raise .digestUnavailable
  | .pargen, _, o => generateParity o.payIn.val
  | .parchk, _, o => finishRes0 (parityWord o.codeIn.val)
  | .w26dfc present len, p, o =>
    decodeField (fun c => (facilityCode c).setWidth 32) (code26 p present (inputString len o))
  | .w26did present len, p, o =>
    decodeField (fun c => (idNumber c).setWidth 32) (code26 p present (inputString len o))
  | .w26dpl present len, p, o =>
    decodeField (fun c => (payloadOf c).setWidth 32) (code26 p present (inputString len o))
  | .w26dcc present len, p, o =>
    decodeField (fun c => BitVec.ofNat 32 (concatenation c)) (code26 p present (inputString len o))
  | .w64enc present len, p, o => ofSanitized encode64 (sanitizeOutcome (sanitize64 p) present (inputString len o))

/-- Every meaning is the shared completion step of its own completion. -/
theorem exec_eq_completeWith (i : Instr) (s : State) : exec i s = completeWith i (completionOf i) s := by
  cases i <;> rfl

theorem exec_written {i : Instr} {s : State} {f : InFlight} (hf : s.inFlight = some f)
    (hw : operandsWritten i f.ops = true) : exec i s = .next (s.complete (completionOf i s.params f.ops)) := by
  rw [exec_eq_completeWith, completeWith_written hf hw]

theorem exec_unwritten {i : Instr} {s : State} {f : InFlight} (hf : s.inFlight = some f)
    (hw : operandsWritten i f.ops = false) : exec i s = .next s.completeFree := by
  rw [exec_eq_completeWith, completeWith_unwritten hf hw]

/-- Everything `exec` can do when it answers a next state. -/
theorem exec_cases {i : Instr} {s t : State} (h : exec i s = .next t) :
    ∃ f, s.inFlight = some f ∧
      ((operandsWritten i f.ops = true ∧ t = s.complete (completionOf i s.params f.ops)) ∨
       (operandsWritten i f.ops = false ∧ t = s.completeFree)) := by
  cases hf : s.inFlight with
  | none => rw [exec_eq_completeWith, completeWith_idle hf] at h; cases h
  | some f =>
    refine ⟨f, rfl, ?_⟩
    cases hw : operandsWritten i f.ops with
    | true => rw [exec_written hf hw] at h; cases h; exact .inl ⟨rfl, rfl⟩
    | false => rw [exec_unwritten hf hw] at h; cases h; exact .inr ⟨rfl, rfl⟩

theorem ofSanitized_fails {k : List Byte → Completion} {r : Sanitized}
    (hk : ∀ t, (k t).outcome = .ok) (h : (ofSanitized k r).outcome ≠ .ok) :
    (ofSanitized k r).results = noResults := by
  cases r with
  | absent => rfl
  | invalidInput => rfl
  | ok t => exact absurd (hk t) h

theorem decodeField_fails {field : Code26 → Word} {c : Option Code26} (h : (decodeField field c).outcome ≠ .ok) :
    (decodeField field c).results = noResults := by
  cases c with
  | none => rfl
  | some c => exact absurd rfl h

/-- A command that ends otherwise than OK lists no result (R232). -/
theorem completionOf_fails {i : Instr} {p : Params} {o : Operands} (h : (completionOf i p o).outcome ≠ .ok) :
    (completionOf i p o).results = noResults := by
  cases i
  case san26 => exact ofSanitized_fails (fun _ => rfl) h
  case san64 => exact ofSanitized_fails (fun _ => rfl) h
  case w64enc => exact ofSanitized_fails (fun _ => rfl) h
  case w26dfc => exact decodeField_fails h
  case w26did => exact decodeField_fails h
  case w26dpl => exact decodeField_fails h
  case w26dcc => exact decodeField_fails h
  case w26enc hashOk =>
    cases hashOk with
    | true => exact absurd rfl h
    | false => rfl
  all_goals exact absurd rfl h

/-! ## Capture -/

/-- A list of registers with everything from `len` on blanked agrees with the first up to `len`. -/
theorem take_capture (len : Nat) (v : Vector (Marked 8) 255) :
    (v.mapIdx fun i m => if i < len then m else Marked.unset 8).toList.take len = v.toList.take len := by
  apply List.ext_getElem?
  intro j
  by_cases hj : j < len
  · by_cases h2 : j < 255
    · simp [hj, h2]
    · simp [hj, h2]
  · simp [hj]

theorem inputString_capture (len : Nat) (o : Operands) :
    inputString len (captureInput true len o) = inputString len o := by
  simp only [inputString, captureInput, if_true]
  rw [take_capture]

theorem inputWritten_capture (len : Nat) (o : Operands) :
    inputWritten len (captureInput true len o) = inputWritten len o := by
  simp only [inputWritten, captureInput, if_true]
  rw [take_capture]

theorem sanitizeOutcome_capture (f : List Byte → List Byte) (present : Bool) (len : Nat) (o : Operands) :
    sanitizeOutcome f present (inputString len (captureInput present len o)) =
      sanitizeOutcome f present (inputString len o) := by
  cases present with
  | false => rfl
  | true => rw [inputString_capture]

theorem code26_capture (p : Params) (present : Bool) (len : Nat) (o : Operands) :
    code26 p present (inputString len (captureInput present len o)) = code26 p present (inputString len o) := by
  cases present with
  | false => rfl
  | true => rw [inputString_capture]

theorem digestByte_capture (o : Operands) (i : Fin 20) (h : 17 ≤ i.val) :
    digestByte (captureDigest true o) i = digestByte o i := by
  simp [digestByte, captureDigest, h]

theorem extract24_capture (o : Operands) : extract24 (captureDigest true o) = extract24 o := by
  rw [extract24, digestByte_capture o 17 (by decide), digestByte_capture o 18 (by decide),
    digestByte_capture o 19 (by decide), ← extract24]

/-- The capture holds all the operation uses: its completion is the one the operand registers themselves give (R36). -/
theorem completionOf_capture (i : Instr) (p : Params) (o : Operands) :
    completionOf i p (captureFor i o) = completionOf i p o := by
  cases i
  case san26 => simp only [completionOf, captureFor, sanitizeOutcome_capture]
  case san64 => simp only [completionOf, captureFor, sanitizeOutcome_capture]
  case w64enc => simp only [completionOf, captureFor, sanitizeOutcome_capture]
  case w26dfc => simp only [completionOf, captureFor, code26_capture]
  case w26did => simp only [completionOf, captureFor, code26_capture]
  case w26dpl => simp only [completionOf, captureFor, code26_capture]
  case w26dcc => simp only [completionOf, captureFor, code26_capture]
  case w26enc hashOk =>
    cases hashOk with
    | false => simp [completionOf]
    | true => simp only [completionOf, captureFor, encode26, extract24_capture]
  all_goals rfl

/-- The capture holds the written marks the operation asks for (R35, R36). -/
theorem operandsWritten_capture (i : Instr) (o : Operands) :
    operandsWritten i (captureFor i o) = operandsWritten i o := by
  cases i
  case w26enc hashOk =>
    cases hashOk with
    | false => rfl
    | true => simp [operandsWritten, captureFor, captureDigest, digestWritten]
  case san26 p n => cases p <;> simp [operandsWritten, captureFor, inputWritten_capture]
  case san64 p n => cases p <;> simp [operandsWritten, captureFor, inputWritten_capture]
  case w64enc p n => cases p <;> simp [operandsWritten, captureFor, inputWritten_capture]
  case w26dfc p n => cases p <;> simp [operandsWritten, captureFor, inputWritten_capture]
  case w26did p n => cases p <;> simp [operandsWritten, captureFor, inputWritten_capture]
  case w26dpl p n => cases p <;> simp [operandsWritten, captureFor, inputWritten_capture]
  case w26dcc p n => cases p <;> simp [operandsWritten, captureFor, inputWritten_capture]
  all_goals rfl

/-! ## Host reads and writes -/

theorem readOperand_cases {w : Nat} (s : State) (m : Marked w) :
    (m.mark = true ∧ s.readOperand m = (m.val.setWidth 32, s)) ∨
    (m.mark = false ∧ s.readOperand m = s.faultyRead .unwrittenRead) := by
  cases h : m.mark <;> simp [State.readOperand, h]

theorem readResult_cases {w : Nat} (s : State) (m : Marked w) :
    ((m.mark = true ∧ s.busy = false) ∧ s.readResult m = (m.val.setWidth 32, s)) ∨
    ((m.mark = false ∨ s.busy = true) ∧ s.readResult m = s.faultyRead .resultNotValid) := by
  cases h : m.mark <;> cases hb : s.busy <;> simp [State.readResult, h, hb]

/-- A host read leaves the state as it is, or records one fault and draws a free value (R65). -/
theorem readReg_cases (s : State) (r : RegNum) :
    (s.readReg r).2 = s ∨ ∃ k, s.readReg r = s.faultyRead k := by
  unfold State.readReg
  cases h : regOfNumber r with
  | none => exact .inr ⟨_, rfl⟩
  | some g =>
    have op : ∀ {w : Nat} (m : Marked w), (s.readOperand m).2 = s ∨ ∃ k, s.readOperand m = s.faultyRead k := by
      intro w m
      rcases readOperand_cases s m with ⟨-, e⟩ | ⟨-, e⟩
      · exact .inl (by rw [e])
      · exact .inr ⟨_, e⟩
    have res : ∀ {w : Nat} (m : Marked w), (s.readResult m).2 = s ∨ ∃ k, s.readResult m = s.faultyRead k := by
      intro w m
      rcases readResult_cases s m with ⟨-, e⟩ | ⟨-, e⟩
      · exact .inl (by rw [e])
      · exact .inr ⟨_, e⟩
    cases g
    case cmd => exact .inr ⟨_, rfl⟩
    case status => exact .inl rfl
    case charIn => exact op _
    case payIn => exact op _
    case codeIn => exact op _
    case dig => exact op _
    case inp => exact op _
    all_goals exact res _

/-- A host write starts a command, is a CMD write while busy, writes one operand register, or records a fault. -/
theorem writeReg_cases (s : State) (r : RegNum) (v : Word) :
    (s.busy = false ∧ s.writeReg r v = s.startNext v) ∨ (s.busy = true ∧ s.writeReg r v = s.writeWhileBusy) ∨
    (∃ o, s.writeReg r v = { s with operands := o }) ∨ ∃ k, s.writeReg r v = s.record k := by
  unfold State.writeReg
  cases h : regOfNumber r with
  | none => exact .inr (.inr (.inr ⟨_, rfl⟩))
  | some g =>
    cases g
    case cmd =>
      cases hb : s.busy
      · exact .inl ⟨rfl, by simp [State.writeCmd, hb]⟩
      · exact .inr (.inl ⟨rfl, by simp [State.writeCmd, hb]⟩)
    case charIn => exact .inr (.inr (.inl ⟨_, rfl⟩))
    case payIn => exact .inr (.inr (.inl ⟨_, rfl⟩))
    case codeIn => exact .inr (.inr (.inl ⟨_, rfl⟩))
    case dig => exact .inr (.inr (.inl ⟨_, rfl⟩))
    case inp => exact .inr (.inr (.inl ⟨_, rfl⟩))
    all_goals exact .inr (.inr (.inr ⟨_, rfl⟩))

/-- Everything a CMD write while busy can leave behind. -/
theorem writeWhileBusy_cases (s : State) :
    (∃ f rest, s.writeWhileBusy =
      { s.record .cmdWhileBusy with fresh := s.fresh + 1, inFlight := some f, queued := rest }) ∨
    ∃ code q, s.writeWhileBusy =
      { s.record .cmdWhileBusy with
        fresh := s.fresh + 1, inFlight := none, queued := [], code := code, results := s.results.publish q } := by
  unfold State.writeWhileBusy
  cases Config.busyWrite s.fresh with
  | pending f rest => exact .inl ⟨f, rest, rfl⟩
  | ended code q => exact .inr ⟨code, q, rfl⟩

/-- Every move of the host is a reset, a write, or a read that may put moves of the same kind before the rest. -/
theorem performMove_cases (s : State) (m : HostMove) :
    (m = .reset ∧ performMove s m = s.hostReset) ∨
    (∃ r v, m = .wr r v ∧ performMove s m = s.writeReg r v) ∨
    ∃ r more, performMove s m = { observe (s.readReg r) with host := more ++ s.host } := by
  have keep : ∀ r, (observe (s.readReg r)).host = s.host := by
    intro r
    rcases readReg_cases s r with e | ⟨k, e⟩
    · simp [e]
    · simp [e]
  cases m with
  | wr r v => exact .inr (.inl ⟨r, v, rfl, rfl⟩)
  | rd r =>
    refine .inr (.inr ⟨r, [], ?_⟩)
    simp only [performMove, List.nil_append]
    rw [← keep r]
  | poll =>
    refine .inr (.inr ?_)
    by_cases h : s.statusWord.getLsbD 4
    · exact ⟨0x001, [.poll], by simp [performMove, pollStatus, h]⟩
    · refine ⟨0x001, [], ?_⟩
      simp only [performMove, pollStatus, h, List.nil_append]
      rw [← keep 0x001]; rfl
  | rdOut => exact .inr (.inr ⟨0x007, _, rfl⟩)
  | reset => exact .inl ⟨rfl, rfl⟩

/-! ## Step -/

theorem step_completes {s : State} {f : InFlight} (hf : s.inFlight = some f) (hw : f.wait = 0) :
    step s = runWord f.word s := by simp [step, hf, hw]

theorem step_waits {s : State} {f : InFlight} {n : Nat} (hf : s.inFlight = some f) (hw : f.wait = n + 1) :
    step s = .next (hostTurn { s with inFlight := some { f with wait := n } }) := by simp [step, hf, hw]

theorem step_idle {s : State} (hf : s.inFlight = none) (hq : s.queued = []) : step s = .next (hostTurn s) := by
  simp [step, hf, hq]

theorem step_startsQueued {s : State} {f : InFlight} {rest : List InFlight} (hf : s.inFlight = none)
    (hq : s.queued = f :: rest) : step s = .next (s.startQueued f rest) := by simp [step, hf, hq]

/-- The host's turn is a step in which the host moves. -/
theorem step_hostTurn {s u : State} (h : HostTurnFrom s u) : step s = .next (hostTurn u) := by
  rcases h with ⟨hf, hq, rfl⟩ | ⟨f, n, hf, hw, rfl⟩
  · exact step_idle hf hq
  · exact step_waits hf hw

/-- Everything a step can do when it answers a next state: complete a command, complete an illegal word, start a queued
command, or let the host move. -/
theorem step_cases {s t : State} (h : step s = .next t) :
    (∃ f i, s.inFlight = some f ∧ decode f.word = .ok i ∧ exec i s = .next t) ∨
    (∃ f e, s.inFlight = some f ∧ decode f.word = .error e ∧ t = s.completeIllegal) ∨
    (∃ f rest, s.inFlight = none ∧ s.queued = f :: rest ∧ t = s.startQueued f rest) ∨
    ∃ u, HostTurnFrom s u ∧ t = hostTurn u := by
  cases hf : s.inFlight with
  | none =>
    cases hq : s.queued with
    | nil =>
      rw [step_idle hf hq] at h; cases h
      exact .inr (.inr (.inr ⟨s, .inl ⟨hf, hq, rfl⟩, rfl⟩))
    | cons f rest =>
      rw [step_startsQueued hf hq] at h; cases h
      exact .inr (.inr (.inl ⟨f, rest, rfl, rfl, rfl⟩))
  | some f =>
    cases hw : f.wait with
    | zero =>
      rw [step_completes hf hw, runWord] at h
      cases hd : decode f.word with
      | ok i => rw [hd] at h; exact .inl ⟨f, i, rfl, hd, h⟩
      | error e => rw [hd] at h; cases h; exact .inr (.inl ⟨f, e, rfl, hd, rfl⟩)
    | succ n =>
      rw [step_waits hf hw] at h; cases h
      exact .inr (.inr (.inr ⟨_, .inr ⟨f, n, hf, hw, rfl⟩, rfl⟩))

end Sys2Proof.Machine
end

