-- ==== Sys2Proof/Laws/HostPort.lean ====
section
/-! SUPPORT. The host's turn: what it leaves of the state, the move it makes, and the numbers of the buffer registers. -/

namespace Sys2Proof.Machine

/-- A host's turn uses up a turn of waiting and leaves everything else to the move. -/
theorem HostTurnFrom.fields {s u : State} (h : HostTurnFrom s u) :
    u.host = s.host ∧ u.operands = s.operands ∧ u.results = s.results ∧ u.faults = s.faults ∧ u.code = s.code ∧
      u.busy = s.busy ∧ u.observed = s.observed ∧ u.params = s.params ∧ u.latencies = s.latencies ∧
      u.fresh = s.fresh ∧ u.queued = s.queued := by
  rcases h with ⟨-, -, rfl⟩ | ⟨f, n, hf, -, rfl⟩
  · simp
  · simp [State.busy, hf]

/-- In the host's turn the step is the host's next move. -/
theorem step_move {s u : State} {m : HostMove} {rest : List HostMove} (h : HostTurnFrom s u) (hm : s.host = m :: rest) :
    step s = .next (performMove { u with host := rest } m) := by
  rw [step_hostTurn h]
  simp [hostTurn, h.fields.1, hm]

/-- A run that starts with a step that answers a next state goes on from it. -/
theorem run_step {s t : State} (k : Nat) (h : step s = .next t) :
    Host.Core.run Sys2Proof.core (k + 1) s = Host.Core.run Sys2Proof.core k t := by
  have h' : Sys2Proof.core.step s = .next t := h
  simp only [Host.Core.run, h']

theorem writeReg_cmd (s : State) (w : Word) : s.writeReg 0x000 w = s.writeCmd w := rfl

theorem writeCmd_idle {s : State} (w : Word) (h : s.inFlight = none) : s.writeCmd w = s.startNext w := by
  simp [State.writeCmd, State.busy, h]

theorem writeCmd_busy {s : State} {f : InFlight} (w : Word) (h : s.inFlight = some f) :
    s.writeCmd w = s.writeWhileBusy := by
  simp [State.writeCmd, State.busy, h]

theorem regOfNumber_out (i : Fin 16) : regOfNumber (BitVec.ofNat 10 (0x010 + i.val)) = some (.out i) := by
  revert i; decide

theorem regOfNumber_dig (i : Fin 20) : regOfNumber (BitVec.ofNat 10 (0x020 + i.val)) = some (.dig i) := by
  revert i; decide

theorem regOfNumber_inp (i : Fin 255) : regOfNumber (BitVec.ofNat 10 (0x100 + i.val)) = some (.inp i) := by
  revert i; decide +kernel

end Sys2Proof.Machine
end

