-- ==== Sys2Proof/Laws/PerInstr.lean ====
section
/-! SUPPORT. Statements per instruction: the word of a command has its reserved bits zero and its row's OP (R86, R88). -/

namespace Sys2Proof.Laws.OpOfWord

/-- The command's word has the reserved bits zero and the OP of the command's row. -/
def Statement (i : Instr) : Prop := reservedField (encode i) = 0 ∧ opField (encode i) = opField i.rowMatch

theorem chcls : Statement .chcls := ⟨rfl, rfl⟩

theorem ch6 : Statement .ch6 := ⟨rfl, rfl⟩

theorem san26 (p : Bool) (n : Nat) : Statement (.san26 p n) := ⟨reservedField_commandWord .., opField_commandWord ..⟩

theorem san64 (p : Bool) (n : Nat) : Statement (.san64 p n) := ⟨reservedField_commandWord .., opField_commandWord ..⟩

theorem w26enc (h : Bool) : Statement (.w26enc h) := ⟨reservedField_commandWord .., opField_commandWord ..⟩

theorem pargen : Statement .pargen := ⟨rfl, rfl⟩

theorem parchk : Statement .parchk := ⟨rfl, rfl⟩

theorem w26dfc (p : Bool) (n : Nat) : Statement (.w26dfc p n) := ⟨reservedField_commandWord .., opField_commandWord ..⟩

theorem w26did (p : Bool) (n : Nat) : Statement (.w26did p n) := ⟨reservedField_commandWord .., opField_commandWord ..⟩

theorem w26dpl (p : Bool) (n : Nat) : Statement (.w26dpl p n) := ⟨reservedField_commandWord .., opField_commandWord ..⟩

theorem w26dcc (p : Bool) (n : Nat) : Statement (.w26dcc p n) := ⟨reservedField_commandWord .., opField_commandWord ..⟩

theorem w64enc (p : Bool) (n : Nat) : Statement (.w64enc p n) := ⟨reservedField_commandWord .., opField_commandWord ..⟩

end Sys2Proof.Laws.OpOfWord
end

