-- ==== Sys2Proof/Tests/Slice0.lean ====
section
/-! SUPPORT. The model's own tests: well-formedness, decoding of words written from the field table, one step per case of
95_test_vectors.md, and for every statement with hypotheses a state that meets them. -/

namespace Sys2Proof.Tests

open Sys2Proof Sys2Proof.Machine

/-! ## Helpers -/

/-- A field of the next state, if there is one. -/
def after {α : Type} (o : Host.Outcome State Fault Refusal) (f : State → α) : Option α :=
  match o with
  | .next t => some (f t)
  | .fault _ => none
  | .refused _ => none

/-- A row of registers of which the first hold the bytes and are marked. -/
def rowOf (n : Nat) (x : List Byte) : Vector (Marked 8) n :=
  ⟨(((x.map fun b => (⟨b, true⟩ : Marked 8)) ++ List.replicate n (Marked.unset 8)).take n).toArray, by simp⟩

def charOps (b : Byte) : Operands := { Operands.unwritten with charIn := ⟨b, true⟩ }
def payOps (v : Payload) : Operands := { Operands.unwritten with payIn := ⟨v, true⟩ }
def codeOps (v : Code26) : Operands := { Operands.unwritten with codeIn := ⟨v, true⟩ }
def digOps (x : List Byte) : Operands := { Operands.unwritten with dig := rowOf 20 x }
def inOps (x : List Byte) : Operands := { Operands.unwritten with inp := rowOf 255 x }

/-- The command word `w` in flight over the given snapshot, its turns used up. -/
def ready (o : Operands) (w : Word) : State := { State.reset with inFlight := some { word := w, ops := o, wait := 0 } }

/-- The snapshot of a command. -/
def snap (i : Instr) (o : Operands) : InFlight := { word := encode i, ops := o, wait := 0 }

/-- A command in flight, given by its snapshot. -/
def flying (f : InFlight) : State := { State.reset with inFlight := some f }

/-- No command in flight, and the given host moves to come. -/
def idle (moves : List HostMove) : State := { State.reset with host := moves }

/-- A command in flight with one turn left, and the given host moves to come. -/
def waiting (moves : List HostMove) : State :=
  { State.reset with host := moves, inFlight := some { word := 0x01, ops := Operands.unwritten, wait := 1 } }

/-- `waiting` after its turn is used up. -/
def waited (moves : List HostMove) : State :=
  { State.reset with host := moves, inFlight := some { word := 0x01, ops := Operands.unwritten, wait := 0 } }

/-- The byte string the result registers hold. -/
def outText (r : ResultRegs) : Option (List Byte) :=
  if r.outLen.mark then some ((r.out.toList.take r.outLen.val.toNat).map (·.val)) else none

/-- CODE, RES0, RES1 and the byte string after a step. -/
def seen (s : State) : Option (Option CmdOutcome × Option Word × Option Word × Option (List Byte)) :=
  after (step s) fun t =>
    (t.code, if t.results.res0.mark then some t.results.res0.val else none,
      if t.results.res1.mark then some t.results.res1.val else none, outText t.results)

theorem idle_turn (moves : List HostMove) : HostTurnFrom (idle moves) (idle moves) := .inl ⟨rfl, rfl, rfl⟩

theorem waiting_turn (moves : List HostMove) : HostTurnFrom (waiting moves) (waited moves) :=
  .inr ⟨_, 0, rfl, rfl, rfl⟩

section

/- One test after the other: the tests evaluated side by side would each reserve a thread's memory. -/
set_option Elab.async false

/-! ## Well-formedness: every LEN check refuses 256 and takes 255 (R81, R83) -/

theorem test_wellFormed_lenOk : lenOk 255 = true ∧ lenOk 256 = false := by decide
theorem test_wellFormed_san26 : (Instr.san26 true 256).wellFormed = false ∧ (Instr.san26 true 255).wellFormed = true := by
  decide
theorem test_wellFormed_san64 : (Instr.san64 true 256).wellFormed = false ∧ (Instr.san64 false 0).wellFormed = true := by
  decide
theorem test_wellFormed_w26dfc : (Instr.w26dfc true 256).wellFormed = false ∧ (Instr.w26dfc true 7).wellFormed = true := by
  decide
theorem test_wellFormed_w26did : (Instr.w26did true 256).wellFormed = false ∧ (Instr.w26did true 7).wellFormed = true := by
  decide
theorem test_wellFormed_w26dpl : (Instr.w26dpl true 256).wellFormed = false ∧ (Instr.w26dpl true 7).wellFormed = true := by
  decide
theorem test_wellFormed_w26dcc : (Instr.w26dcc true 256).wellFormed = false ∧ (Instr.w26dcc true 7).wellFormed = true := by
  decide
theorem test_wellFormed_w64enc : (Instr.w64enc true 256).wellFormed = false ∧ (Instr.w64enc true 3).wellFormed = true := by
  decide

/-! ## Decoding: words written from R81, and the table L2.1 of 95_test_vectors.md -/

theorem test_decode_chcls : decode 0b000000000000000000000000_00000001 = .ok .chcls := by decide +kernel
theorem test_decode_ch6 : decode 0b000000000000000000000000_00000010 = .ok .ch6 := by decide +kernel
theorem test_decode_san26 : decode 0b00000000000000_0_1_00001001_00010000 = .ok (.san26 true 9) := by decide +kernel
theorem test_decode_san26_null : decode 0b00000000000000_0_0_11111111_00010000 = .ok (.san26 false 255) := by decide +kernel
theorem test_decode_san64 : decode 0b00000000000000_0_1_11111111_00010001 = .ok (.san64 true 255) := by decide +kernel
theorem test_decode_w26enc : decode 0b00000000000000_1_0_00000000_00100000 = .ok (.w26enc true) := by decide +kernel
theorem test_decode_w26enc_nohash : decode 0b00000000000000_0_0_00000000_00100000 = .ok (.w26enc false) := by
  decide +kernel
theorem test_decode_pargen : decode 0b000000000000000000000000_00100001 = .ok .pargen := by decide +kernel
theorem test_decode_parchk : decode 0b000000000000000000000000_00100010 = .ok .parchk := by decide +kernel
theorem test_decode_w26dfc : decode 0b00000000000000_0_1_00000111_00110000 = .ok (.w26dfc true 7) := by decide +kernel
theorem test_decode_w26did : decode 0b00000000000000_0_1_00000111_00110001 = .ok (.w26did true 7) := by decide +kernel
theorem test_decode_w26dpl : decode 0b00000000000000_0_1_00000111_00110010 = .ok (.w26dpl true 7) := by decide +kernel
theorem test_decode_w26dcc : decode 0b00000000000000_0_1_00000111_00110011 = .ok (.w26dcc true 7) := by decide +kernel
theorem test_decode_w64enc : decode 0b00000000000000_0_1_00000011_01000000 = .ok (.w64enc true 3) := by decide +kernel

theorem test_decode_illegal_op :
    decode 0x00000000 = .error .unassignedOp ∧ decode 0x000000FF = .error .unassignedOp ∧
      decode 0x00000003 = .error .unassignedOp := by decide +kernel
theorem test_decode_illegal_field :
    decode 0x00000101 = .error .unusedField ∧ decode 0x00010001 = .error .unusedField ∧
      decode 0x00020022 = .error .unusedField ∧ decode 0x00020010 = .error .unusedField ∧
      decode 0x00010020 = .error .unusedField ∧ decode 0x00020120 = .error .unusedField := by decide +kernel
theorem test_decode_illegal_reserved :
    decode 0x00040001 = .error .reservedBits ∧ decode 0x80010910 = .error .reservedBits := by decide +kernel

/-- The assembler's words of R93 and L2.1. -/
theorem test_encode :
    encode (.san26 true 9) = 0x00010910 ∧ encode (.san64 true 255) = 0x0001FF11 ∧ encode (.w26enc true) = 0x00020020 ∧
      encode (.w26enc false) = 0x00000020 ∧ encode (.w26dcc true 7) = 0x00010733 ∧ encode (.w64enc true 3) = 0x00010340 ∧
      encode (.san26 false 0) = 0x00000010 := by decide +kernel

theorem test_decodeTableWord :
    decodeTableWord 32 0x00000040 = some (.w64enc false 0) ∧ decodeTableWord 32 0x00000003 = none := by decide +kernel

/-! ## The first instruction after reset: with no operand written, the commands that read one record it (R35) -/

theorem test_reset_runs_reading_commands :
    [0x01, 0x02, 0x21, 0x22, 0x00020020].map
        (fun w => after (step (State.reset.withFetchWord 32 w)) fun t => (t.faults, t.busy)) =
      List.replicate 5 (some ([.unwrittenOperand], false)) := by decide +kernel

theorem test_reset_runs_null_commands :
    [0x10, 0x11, 0x20, 0x30, 0x31, 0x32, 0x33, 0x40, 0x0000].map
        (fun w => after (step (State.reset.withFetchWord 32 w)) fun t => (t.code, t.faults)) =
      [.absent, .absent, .digestUnavailable, .invalidInput, .invalidInput, .invalidInput, .invalidInput, .absent,
        .illegalCmd].map fun c => some (some c, []) := by decide +kernel

/-! ## One step per case of L2.3 to L2.8, the command word as the vectors give it -/

theorem test_chcls_lower : seen (ready (charOps 0x61) 0x01) = some (some .ok, some 0x241, none, none) := by decide +kernel
theorem test_chcls_space : seen (ready (charOps 0x20) 0x01) = some (some .ok, some 0x520, none, none) := by decide +kernel
theorem test_ch6_upper : seen (ready (charOps 0x5A) 0x02) = some (some .ok, some 51, none, none) := by decide +kernel
theorem test_ch6_escape : seen (ready (charOps 0x61) 0x02) = some (some .ok, some 63, none, none) := by decide +kernel

/-- "1-ABC-123" gives "1ABC123". -/
theorem test_san26_plate :
    seen (ready (inOps [0x31, 0x2D, 0x41, 0x42, 0x43, 0x2D, 0x31, 0x32, 0x33]) 0x00010910) =
      some (some .ok, none, none, some [0x31, 0x41, 0x42, 0x43, 0x31, 0x32, 0x33]) := by decide +kernel

/-- "!!!" leaves nothing. -/
theorem test_san26_empties : seen (ready (inOps [0x21, 0x21, 0x21]) 0x00010310) = some (some .absent, none, none, none) := by
  decide +kernel

/-- "\xe9a" keeps 0xE9 and uppercases 'a'. -/
theorem test_san64_keeps_high_byte :
    seen (ready (inOps [0xE9, 0x61]) 0x00010211) = some (some .ok, none, none, some [0xE9, 0x41]) := by decide +kernel

/-- "  a b c  " under KEEP gives "A B C". -/
theorem test_san64_keep :
    seen { ready (inOps [0x20, 0x20, 0x61, 0x20, 0x62, 0x20, 0x63, 0x20, 0x20]) 0x00010911 with
        params := { Params.default with internalWs := .keep } } =
      some (some .ok, none, none, some [0x41, 0x20, 0x42, 0x20, 0x43]) := by decide +kernel

/-- SHA-1("1ABC123") gives "06AAB9F". -/
theorem test_w26enc_digest :
    seen (ready (digOps [0xF3, 0x6E, 0x1D, 0xA9, 0x1C, 0xF0, 0x19, 0x9A, 0x3C, 0xAD, 0xD0, 0xCC, 0x94, 0x2F, 0x3D, 0x08,
        0x03, 0x35, 0x55, 0xCF]) 0x00020020) =
      some (some .ok, some 0x06AAB9F, some 0x3555CF, some [0x30, 0x36, 0x41, 0x41, 0x42, 0x39, 0x46]) := by decide +kernel

theorem test_w26enc_nohash :
    seen (ready Operands.unwritten 0x00000020) = some (some .digestUnavailable, none, none, none) := by decide +kernel

theorem test_pargen_even_bit :
    seen (ready (payOps 0x001000) 0x21) =
      some (some .ok, some 0x2002001, none, some [0x32, 0x30, 0x30, 0x32, 0x30, 0x30, 0x31]) := by decide +kernel
theorem test_pargen_boundary_bit :
    seen (ready (payOps 0x000800) 0x21) =
      some (some .ok, some 0x0001000, none, some [0x30, 0x30, 0x30, 0x31, 0x30, 0x30, 0x30]) := by decide +kernel

theorem test_parchk_bit13 : seen (ready (codeOps 0x0002000) 0x22) = some (some .ok, some 0x0, none, none) := by decide +kernel
theorem test_parchk_even_only : seen (ready (codeOps 0x06AAB9D) 0x22) = some (some .ok, some 0x1, none, none) := by
  decide +kernel

/-- "06AAB9F". -/
def digitsOfPlate : List Byte := [0x30, 0x36, 0x41, 0x41, 0x42, 0x39, 0x46]

/-- "3FFFFFF". -/
def allOnes : List Byte := [0x33, 0x46, 0x46, 0x46, 0x46, 0x46, 0x46]

theorem test_w26dfc_field : seen (ready (inOps digitsOfPlate) 0x00010730) = some (some .ok, some 53, none, none) := by
  decide +kernel

/-- "4000000" has 27 significant bits. -/
theorem test_w26dfc_range :
    seen (ready (inOps [0x34, 0x30, 0x30, 0x30, 0x30, 0x30, 0x30]) 0x00010730) =
      some (some .invalidInput, none, none, none) := by decide +kernel

theorem test_w26did_field : seen (ready (inOps digitsOfPlate) 0x00010731) = some (some .ok, some 21967, none, none) := by
  decide +kernel

/-- " 1" is malformed: the string is not trimmed. -/
theorem test_w26did_blank_inside :
    seen (ready (inOps [0x20, 0x31]) 0x00010231) = some (some .invalidInput, none, none, none) := by decide +kernel

theorem test_w26dpl_all_ones : seen (ready (inOps allOnes) 0x00010732) = some (some .ok, some 0xFFFFFF, none, none) := by
  decide +kernel

/-- "06aab9f" with HEX_LOWER_OK false. -/
theorem test_w26dpl_lower_off :
    seen { ready (inOps [0x30, 0x36, 0x61, 0x61, 0x62, 0x39, 0x66]) 0x00010732 with
        params := { Params.default with hexLowerOk := false } } = some (some .invalidInput, none, none, none) := by
  decide +kernel

theorem test_w26dcc_all_ones : seen (ready (inOps allOnes) 0x00010733) = some (some .ok, some 25565535, none, none) := by
  decide +kernel
theorem test_w26dcc_blank : seen (ready (inOps []) 0x00010033) = some (some .invalidInput, none, none, none) := by
  decide +kernel

/-- "1-ABC-123" gives 6011FDA6DCFD1493. -/
theorem test_w64enc_escape :
    seen (ready (inOps [0x31, 0x2D, 0x41, 0x42, 0x43, 0x2D, 0x31, 0x32, 0x33]) 0x00010940) =
      some (some .ok, some 0xDCFD1493, some 0x6011FDA6, some [0x36, 0x30, 0x31, 0x31, 0x46, 0x44, 0x41, 0x36, 0x44, 0x43,
        0x46, 0x44, 0x31, 0x34, 0x39, 0x33]) := by decide +kernel

/-- "12345678901" is over-long. -/
theorem test_w64enc_overlong :
    seen (ready (inOps [0x31, 0x32, 0x33, 0x34, 0x35, 0x36, 0x37, 0x38, 0x39, 0x30, 0x31]) 0x00010B40) =
      some (some .invalidInput, none, none, none) := by decide +kernel

/-! ## STATUS (L2.2) and the host's accesses -/

theorem test_status_words :
    State.reset.statusWord = 0x00 ∧ (waited []).statusWord = 0x10 ∧
      [CmdOutcome.ok, .absent, .invalidInput, .digestUnavailable, .illegalCmd].map
        (fun c => { State.reset with code := some c }.statusWord) = [0x01, 0x02, 0x03, 0x04, 0x05] := by decide +kernel

/-- A write keeps the low eight bits and the read returns them (R31, R34). -/
theorem test_write_read_in :
    after (step (idle [.wr 0x1FE 0xFFFFFF5A])) (fun t => (t.readReg 0x1FE).1) = some 0x5A := by decide +kernel

theorem test_read_before_write : after (step (idle [.rd 0x033])) (·.faults) = some [.unwrittenRead] := by decide +kernel
theorem test_read_cmd : after (step (idle [.rd 0x000])) (·.faults) = some [.accessViolation] := by decide +kernel
theorem test_write_status : after (step (idle [.wr 0x001 7])) (·.faults) = some [.accessViolation] := by decide +kernel
theorem test_reserved_number : after (step (idle [.wr 0x1FF 7])) (·.faults) = some [.reservedAccess] := by decide +kernel
theorem test_result_while_busy : after (step (waiting [.rd 0x005])) (·.faults) = some [.resultNotValid] := by decide +kernel

/-! ## Witnesses: for every statement with hypotheses, a state and operands that meet them

Hypotheses that a statement shares (a host's turn, a move to come) are met by `idle`, `waiting` and `flying`. -/

/-- CHAR_IN written with 'a', in a completed block whose RES0 and OUT are valid. -/
def finished : State :=
  { State.reset with
    operands := { charIn := ⟨0x61, true⟩, payIn := ⟨0x800000, true⟩, codeIn := ⟨0x3FFFFFF, true⟩,
                  dig := rowOf 20 (List.replicate 20 0x5A), inp := rowOf 255 (List.replicate 255 0x41) }
    code := some .ok
    results := State.reset.results.publish { res0 := some 1, res1 := some 2, out := some (List.replicate 16 0x30) } }

theorem test_witness_StepKeepsTheInvariant :
    (waiting []).Inv ∧ step (waiting []) = .next (waited []) :=
  ⟨⟨fun _ => rfl, fun _ => ResultRegs.invalid_noneValid, ResultRegs.invalid_noneValid.outShape, fun h => absurd rfl h,
    fun _ _ => ResultRegs.invalid_noneValid⟩, rfl⟩

theorem test_witness_DecodeOfEncodeIsTheCommand : (Instr.w64enc true 255).wellFormed = true := by decide

theorem test_witness_WordSelectsTheMatchingRow :
    decode 0x0001FF11 = .ok (.san64 true 255) ∧ 0x0001FF11 &&& (Instr.san64 false 0).rowMask = (Instr.san64 false 0).rowMatch :=
  by decide +kernel

/-- One word for each condition of R89, at its boundary bits. -/
theorem test_witness_IllegalWord_words :
    IllegalByRule 0x00040001 ∧ IllegalByRule 0x80000001 ∧ IllegalByRule 0x00 ∧ IllegalByRule 0xFF ∧
      IllegalByRule 0x00000101 ∧ IllegalByRule 0x00020001 ∧ IllegalByRule 0x00020010 ∧ IllegalByRule 0x00000120 ∧
      IllegalByRule 0x00010020 ∧ ¬IllegalByRule 0x0001FF10 ∧ ¬IllegalByRule 0x00020020 ∧ ¬IllegalByRule 0x01 := by
  refine ⟨?_, ?_, ?_, ?_, ?_, ?_, ?_, ?_, ?_, ?_, ?_, ?_⟩ <;> unfold IllegalByRule <;> decide

theorem test_witness_IllegalWordIsAcceptedAndEndsIllegal :
    IllegalByRule (0x00000101 : Word).toNat ∧ (idle [.wr 0x000 0x00000101]).inFlight = none ∧
      (idle [.wr 0x000 0x00000101]).queued = [] ∧
      (flying { word := 0x00000101, ops := Operands.unwritten, wait := 0 }).inFlight =
        some { word := 0x00000101, ops := Operands.unwritten, wait := 0 } :=
  ⟨by unfold IllegalByRule; decide +kernel, rfl, rfl, rfl⟩

theorem test_witness_StepRunsTheDecodedCommand :
    (flying (snap (.w26enc false) Operands.unwritten)).inFlight = some (snap (.w26enc false) Operands.unwritten) ∧
      decode (snap (.w26enc false) Operands.unwritten).word = .ok (.w26enc false) ∧
      HostTurnFrom (idle []) (idle []) ∧ HostTurnFrom (waiting []) (waited []) ∧ (waiting []).host = [] :=
  ⟨rfl, by decide +kernel, idle_turn _, waiting_turn _, rfl⟩

theorem test_witness_RegisterMapIsOneToOne :
    regOfNumber 0x1FE = some (.inp 254) ∧ regOfNumber 0x033 = some (.dig 19) ∧ regOfNumber 0x010 = some (.out 0) := by
  decide +kernel

/-- The numbers of the write's clauses are the first and last of each range, and differ. -/
theorem test_witness_OperandWriteKeepsItsBitsAndMarksIt :
    HostTurnFrom (idle [.wr 0x1FE 0xFFFFFFFF]) (idle [.wr 0x1FE 0xFFFFFFFF]) ∧
      HostTurnFrom (waiting [.wr 0x020 5]) (waited [.wr 0x020 5]) ∧
      (0x1FE : RegNum) = BitVec.ofNat 10 (0x100 + (254 : Fin 255).val) ∧
      (0x100 : RegNum) = BitVec.ofNat 10 (0x100 + (0 : Fin 255).val) ∧
      (0x020 : RegNum) = BitVec.ofNat 10 (0x020 + (0 : Fin 20).val) ∧
      (0x033 : RegNum) = BitVec.ofNat 10 (0x020 + (19 : Fin 20).val) :=
  ⟨idle_turn _, waiting_turn _, by decide, by decide, by decide, by decide⟩

theorem test_witness_OperandReadReturnsTheKeptBits :
    HostTurnFrom finished finished ∧ finished.operands.charIn.mark = true ∧ finished.operands.payIn.mark = true ∧
      finished.operands.codeIn.mark = true ∧ finished.operands.dig[(19 : Fin 20)].mark = true ∧
      finished.operands.inp[(254 : Fin 255)].mark = true ∧ State.reset.operands.charIn.mark = false ∧
      State.reset.operands.payIn.mark = false ∧ State.reset.operands.codeIn.mark = false ∧
      State.reset.operands.dig[(19 : Fin 20)].mark = false ∧ State.reset.operands.inp[(254 : Fin 255)].mark = false :=
  ⟨.inl ⟨rfl, rfl, rfl⟩, rfl, rfl, rfl, by decide +kernel, by decide +kernel, rfl, rfl, rfl, by decide +kernel,
    by decide +kernel⟩

theorem test_witness_ResultReadNeedsAValidRegister :
    HostTurnFrom finished finished ∧ finished.busy = false ∧ finished.results.res0.mark = true ∧
      finished.results.res1.mark = true ∧ finished.results.outLen.mark = true ∧
      finished.results.out[(15 : Fin 16)].mark = true ∧ (waiting [.rd 0x005]).busy = true ∧
      State.reset.results.res0.mark = false ∧ State.reset.results.out[(15 : Fin 16)].mark = false :=
  ⟨.inl ⟨rfl, rfl, rfl⟩, rfl, rfl, rfl, rfl, by decide +kernel, rfl, rfl, by decide +kernel⟩

theorem test_witness_StatusReadReturnsBusyAndCode :
    HostTurnFrom (waiting [.rd 0x001]) (waited [.rd 0x001]) ∧ (waiting [.rd 0x001]).host = [.rd 0x001] ∧
      HostTurnFrom (idle [.rd 0x001]) (idle [.rd 0x001]) := ⟨waiting_turn _, rfl, idle_turn _⟩

/-- The ends of the three ranges of reserved numbers, and their neighbours, which are not reserved. -/
theorem test_witness_ReservedNumberIsAProtocolFault :
    (ReservedNumber 0x008 ∧ ReservedNumber 0x00F ∧ ReservedNumber 0x034 ∧ ReservedNumber 0x0FF ∧ ReservedNumber 0x1FF ∧
      ReservedNumber 0x3FF) ∧
      (¬ReservedNumber 0x007 ∧ ¬ReservedNumber 0x010 ∧ ¬ReservedNumber 0x033 ∧ ¬ReservedNumber 0x100 ∧
        ¬ReservedNumber 0x1FE) ∧ HostTurnFrom (idle [.rd 0x1FF]) (idle [.rd 0x1FF]) := by
  refine ⟨?_, ?_, idle_turn _⟩ <;> unfold ReservedNumber <;> decide

theorem test_witness_WrongAccessKindIsAProtocolFault :
    (ReadOnlyNumber 0x001 ∧ ReadOnlyNumber 0x005 ∧ ReadOnlyNumber 0x006 ∧ ReadOnlyNumber 0x007 ∧ ReadOnlyNumber 0x010 ∧
      ReadOnlyNumber 0x01F ∧ ¬ReadOnlyNumber 0x020 ∧ ¬ReadOnlyNumber 0x000) ∧
      HostTurnFrom (idle [.wr 0x01F 9]) (idle [.wr 0x01F 9]) ∧ HostTurnFrom (waiting [.rd 0x000]) (waited [.rd 0x000]) := by
  refine ⟨?_, idle_turn _, waiting_turn _⟩
  unfold ReadOnlyNumber
  decide

theorem test_witness_CmdWriteStartsTheCommand :
    ({ idle [.wr 0x000 0x01] with latencies := [3] } : State).inFlight = none ∧
      ({ idle [.wr 0x000 0x01] with latencies := [3] } : State).queued = [] ∧
      ({ idle [.wr 0x000 0x01] with latencies := [3] } : State).host = [.wr 0x000 0x01] := ⟨rfl, rfl, rfl⟩

theorem test_witness_SnapshotHoldsTheOperandsRead :
    decode 0x0001FF10 = .ok (.san26 true 255) ∧ stringLen (.san26 true 255) = some 255 ∧
      (idle [.wr 0x000 0x0001FF10]).inFlight = none ∧ (idle [.wr 0x000 0x0001FF10]).queued = [] :=
  ⟨by decide +kernel, rfl, rfl, rfl⟩

theorem test_witness_CmdWriteWhileBusyIsAProtocolFault :
    HostTurnFrom (waiting [.wr 0x000 0x02]) (waited [.wr 0x000 0x02]) ∧ (waiting [.wr 0x000 0x02]).inFlight ≠ none :=
  ⟨waiting_turn _, by decide +kernel⟩

/-- One command for each way an operand can be unwritten. -/
theorem test_witness_UnwrittenOperandIsAProtocolFault :
    (snap .ch6 Operands.unwritten).ops.charIn.mark = false ∧ (snap .pargen Operands.unwritten).ops.payIn.mark = false ∧
      (snap .parchk Operands.unwritten).ops.codeIn.mark = false ∧
      ¬DigestReady (snap (.w26enc true) (digOps (List.replicate 19 1))) ∧ stringLen (.san64 true 255) = some 255 ∧
      (inOps (List.replicate 254 0x41)).inp[(254 : Fin 255)].mark = false := by
  unfold DigestReady
  decide +kernel

/-- The path of written operands, and that of an unwritten one. -/
theorem test_witness_EveryCommandKeepsOperandsAndHost :
    after (exec (.w26enc false) (flying (snap (.w26enc false) Operands.unwritten))) (·.code) =
        some (some .digestUnavailable) ∧
      after (exec .chcls (flying (snap .chcls Operands.unwritten))) (fun t => (t.faults, t.inFlight)) =
        some ([.unwrittenOperand], none) := by decide +kernel

theorem test_witness_FaultsAreNeverCleared :
    after (step { idle [.rd 0x001] with faults := [.accessViolation] }) (·.faults) = some [.accessViolation] := by
  decide +kernel

theorem test_witness_OperandsChangeOnlyByHostWriteOrReset :
    step (waiting []) = .next (waited []) ∧ HostTurnFrom (idle [.reset]) (idle [.reset]) ∧ OperandNumber 0x1FE ∧
      OperandNumber 0x020 :=
  ⟨rfl, idle_turn _, by unfold OperandNumber; decide, by unfold OperandNumber; decide⟩

theorem test_witness_ParametersNeverChange : step (waiting []) = .next (waited []) := rfl

theorem test_witness_HostResetDiscardsEverything :
    HostTurnFrom (waiting [.reset]) (waited [.reset]) ∧ (waiting [.reset]).host = [.reset] := ⟨waiting_turn _, rfl⟩

theorem test_witness_CommandInFlightCompletes :
    (waiting [.rd 0x001, .poll, .rdOut, .wr 0x002 7]).inFlight ≠ none ∧
      ∀ m ∈ (waiting [.rd 0x001, .poll, .rdOut, .wr 0x002 7]).host, leavesFlight m = true := by decide +kernel

theorem test_witness_PollRepeatsWhileBusy :
    HostTurnFrom (waiting [.poll]) (waited [.poll]) ∧ HostTurnFrom (idle [.poll]) (idle [.poll]) ∧
      (waiting [.poll]).host = [.poll] := ⟨waiting_turn _, idle_turn _, rfl⟩

/-- A valid OUT_LEN of sixteen; a busy block; an idle block whose OUT_LEN is not valid. -/
theorem test_witness_RdOutReadsTheByteString :
    ({ finished with host := [.rdOut] } : State).inFlight = none ∧ finished.queued = [] ∧
      finished.results.outLen.mark = true ∧ finished.results.outLen.val.toNat = 16 ∧
      HostTurnFrom (waiting [.rdOut]) (waited [.rdOut]) ∧ (waiting [.rdOut]).busy = true ∧
      HostTurnFrom (idle [.rdOut]) (idle [.rdOut]) ∧ (idle [.rdOut]).results.outLen.mark = false :=
  ⟨rfl, rfl, rfl, by decide +kernel, waiting_turn _, rfl, idle_turn _, rfl⟩

theorem test_witness_LdstrAndLddigFillTheBuffers :
    (idle (ldStr [0x41, 0x42])).host = ldStr [0x41, 0x42] ++ [] ∧ ([0x41, 0x42] : List Byte).length ≤ 255 ∧
      (idle (ldDig (List.replicate 20 0x5A))).host = ldDig (List.replicate 20 0x5A) ++ [] ∧
      (List.replicate 20 (0x5A : Byte)).length = 20 := by decide +kernel

theorem test_witness_ErrorOutcomeLeavesNoResult :
    operandsWritten (.w26enc false) Operands.unwritten = true ∧
      after (exec (.w26enc false) (flying (snap (.w26enc false) Operands.unwritten))) (·.code) =
        some (some .digestUnavailable) := by decide +kernel

theorem test_witness_OutcomesOfEachOperation :
    operandsWritten (.san26 true 255) (inOps (List.replicate 255 0x41)) = true := by decide +kernel

theorem test_witness_CompletionDependsOnTheSnapshotAlone :
    (flying (snap .chcls (charOps 0x61))).inFlight =
        ({ flying (snap .chcls (charOps 0x61)) with operands := charOps 0x62 } : State).inFlight ∧
      operandsWritten .chcls (charOps 0x61) = true := ⟨rfl, rfl⟩

theorem test_witness_CommandRunsOnTheOperandRegisters :
    (Instr.san26 true 255).wellFormed = true ∧ operandsWritten (.san26 true 255) finished.operands = true ∧
      ({ finished with latencies := [0], host := [.wr 0x000 (encode (.san26 true 255))] } : State).inFlight = none ∧
      finished.queued = [] := ⟨by decide, by decide +kernel, rfl, rfl⟩

/-- The operations on CHAR_IN, PAY_IN and CODE_IN. -/
theorem test_witness_one_register_commands :
    (snap .chcls (charOps 0x7A)).ops.charIn.mark = true ∧ (snap .ch6 (charOps 0x5B)).ops.charIn.mark = true ∧
      (snap .pargen (payOps 0xFFFFFF)).ops.payIn.mark = true ∧ (snap .parchk (codeOps 0x3FFFFFF)).ops.codeIn.mark = true :=
  ⟨rfl, rfl, rfl, rfl⟩

theorem test_witness_W26encEncodesTheDigest : DigestReady (snap (.w26enc true) (digOps (List.replicate 20 0x80))) := by
  unfold DigestReady
  decide +kernel

/-- The operations on the input string: a null one, a plate of three bytes and an empty one. -/
theorem test_witness_string_commands :
    InputReady false 255 (snap (.san26 false 255) Operands.unwritten) ∧
      InputReady true 3 (snap (.w64enc true 3) (inOps [0x41, 0x42, 0x43])) ∧
      InputReady true 0 (snap (.w26dcc true 0) Operands.unwritten) := by
  unfold InputReady
  decide +kernel

theorem test_witness_InputStringIsInZeroUpward :
    inputString 255 (inOps (List.replicate 254 0x41 ++ [0x42])) = List.replicate 254 0x41 ++ [0x42] := by decide +kernel

theorem test_witness_TrimChangesNothingInTheSanitizers :
    (∀ b ∈ Params.default.ws, isAlnum26 (upper b) = false) ∧ Params.default.internalWs = .strip := by decide

theorem test_witness_SanitizedPlateIsOfTheAlphabet :
    InputReady true 2 (snap (.san64 true 2) (inOps [0xE9, 0x61])) ∧
      after (exec (.san64 true 2) (flying (snap (.san64 true 2) (inOps [0xE9, 0x61])))) (·.code) = some (some .ok) ∧
      after (exec (.san26 true 2) (flying (snap (.san26 true 2) (inOps [0xE9, 0x61])))) (·.code) = some (some .ok) := by
  unfold InputReady
  decide +kernel

/-- The ends of the ranges of R170 and their neighbours, with lowercase digits allowed and not. -/
theorem test_witness_HexparseReadsTheText :
    [0x2F, 0x30, 0x39, 0x3A, 0x40, 0x41, 0x46, 0x47, 0x60, 0x61, 0x66, 0x67].map (hexVal Params.default) =
        [none, some 0, some 9, none, none, some 10, some 15, none, none, some 10, some 15, none] ∧
      [0x41, 0x61, 0x66].map (hexVal { Params.default with hexLowerOk := false }) = [some 10, none, none] ∧
      (∃ b ∈ digitsOfPlate, b ∉ Params.default.ws) ∧
      digitsOfPlate.map (hexVal Params.default) = [0, 6, 10, 10, 11, 9, 15].map some := by decide +kernel

theorem test_witness_HexTextReadsBack : 16 ^ 7 - 1 < 16 ^ 7 ∧ hexText 7 (16 ^ 7 - 1) = List.replicate 7 0x46 := by
  decide +kernel

/-- The digest's three last bytes 35 55 CF, and the text "06AAB9F" the block gives for them, in IN. -/
theorem test_witness_DecodingAnEncodedDigestRecoversIt :
    ∃ t, exec (.w26enc true) (flying (snap (.w26enc true) (digOps (List.replicate 17 0 ++ [0x35, 0x55, 0xCF])))) = .next t ∧
      DigestReady (snap (.w26enc true) (digOps (List.replicate 17 0 ++ [0x35, 0x55, 0xCF]))) ∧
      (∀ i : Fin 7, (inOps digitsOfPlate).inp[i.val] = ⟨t.results.out[i.val].val, true⟩) ∧
      ∀ b ∈ Params.default.ws, hexVal Params.default b = none := by
  refine ⟨_, exec_written rfl (by decide +kernel), ?_, by decide +kernel, by decide⟩
  unfold DigestReady
  decide +kernel

theorem test_witness_CodeTableIsABijectionOnTheSymbols :
    code6 0x20 = 0 ∧ code6 0x30 = 16 ∧ code6 0x5A = 51 ∧ code6 0x5B = 63 := by decide

/-- The padded plates of one byte and of ten. -/
theorem test_witness_Wiegand64LanesAreTheCharacterCodes :
    (pad10 [0x41])[0]? = some 0x20 ∧ (pad10 [0x41])[9]? = some 0x41 ∧
      (pad10 (List.replicate 10 0x5A))[0]? = some 0x5A ∧ (pad10 (List.replicate 10 0x5A)).length = 10 := by decide

/-- Lengths one and ten (R207). -/
theorem test_witness_Wiegand64HasSixteenNaturalDigits :
    1 ≤ ([0x41] : List Byte).length ∧ (List.replicate 10 (0x5A : Byte)).length ≤ 10 ∧
      hex16 (w64 [0x41]) = List.replicate 1 0x36 ++ List.replicate 13 0x30 ++ [0x31, 0x41] := by decide +kernel

theorem test_witness_Wiegand64IsInjectiveOnSymbols :
    (∀ b ∈ sanitize64 Params.default [0x61, 0x20, 0x39], IsSymbol36 b) ∧
      (sanitize64 Params.default [0x61, 0x20, 0x39]).length = 2 ∧
      w64 (sanitize64 Params.default [0x61, 0x20, 0x39]) = w64 (sanitize64 Params.default [0x41, 0x39]) := by
  unfold IsSymbol36
  decide +kernel

end

end Sys2Proof.Tests
end

section
/-! PROOFS. What every step keeps: the parameters always, and the recorded protocol faults until a reset by the host
(R10, R41, R241). -/

namespace Sys2Proof.Machine

/-- `t` has the parameters of `s`, and its faults are those of `s` with perhaps later ones after them. -/
structure State.Extends (s t : State) : Prop where
  params : t.params = s.params
  faults : s.faults <+: t.faults

theorem readReg_extends (s : State) (r : RegNum) : s.Extends (s.readReg r).2 := by
  rcases readReg_cases s r with e | ⟨k, e⟩
  · rw [e]; exact ⟨rfl, List.prefix_rfl⟩
  · rw [e]; exact ⟨rfl, List.prefix_append ..⟩

theorem writeWhileBusy_extends (s : State) : s.Extends s.writeWhileBusy := by
  rcases writeWhileBusy_cases s with ⟨f, rest, e⟩ | ⟨code, q, e⟩
  · rw [e]; exact ⟨rfl, List.prefix_append ..⟩
  · rw [e]; exact ⟨rfl, List.prefix_append ..⟩

theorem writeReg_extends (s : State) (r : RegNum) (v : Word) : s.Extends (s.writeReg r v) := by
  rcases writeReg_cases s r v with ⟨-, e⟩ | ⟨-, e⟩ | ⟨o, e⟩ | ⟨k, e⟩
  · rw [e]; exact ⟨rfl, List.prefix_rfl⟩
  · rw [e]; exact writeWhileBusy_extends s
  · rw [e]; exact ⟨rfl, List.prefix_rfl⟩
  · rw [e]; exact ⟨rfl, List.prefix_append ..⟩

theorem exec_extends {i : Instr} {s t : State} (h : exec i s = .next t) : s.Extends t := by
  obtain ⟨f, -, ⟨-, rfl⟩ | ⟨-, rfl⟩⟩ := exec_cases h
  · exact ⟨rfl, List.prefix_rfl⟩
  · exact ⟨rfl, List.prefix_append ..⟩

/-- A reset is the one move of the host that may take recorded faults away. -/
theorem performMove_extends_or_reset (s : State) (m : HostMove) :
    s.Extends (performMove s m) ∨ (m = .reset ∧ performMove s m = s.hostReset) := by
  rcases performMove_cases s m with hr | ⟨r, v, -, e⟩ | ⟨r, more, e⟩
  · exact .inr hr
  · rw [e]; exact .inl (writeReg_extends s r v)
  · obtain ⟨hp, hf⟩ := readReg_extends s r
    rw [e]; exact .inl ⟨hp, hf⟩

/-- Everything the host's turn can do to parameters and recorded faults. -/
theorem hostTurn_extends_or_reset (s : State) :
    s.Extends (hostTurn s) ∨
      ∃ rest, s.host = .reset :: rest ∧ hostTurn s = { s with host := rest }.hostReset := by
  unfold hostTurn
  cases hm : s.host with
  | nil => exact .inl ⟨rfl, List.prefix_rfl⟩
  | cons m rest =>
    rcases performMove_extends_or_reset { s with host := rest } m with ⟨hp, hf⟩ | ⟨rfl, e⟩
    · exact .inl ⟨hp, hf⟩
    · exact .inr ⟨rest, rfl, e⟩

/-- Every step keeps parameters and recorded faults, unless the host resets the block in it. -/
theorem step_extends_or_reset {s t : State} (h : step s = .next t) :
    s.Extends t ∨
      ∃ u rest, HostTurnFrom s u ∧ s.host = .reset :: rest ∧ t = { u with host := rest }.hostReset := by
  rcases step_cases h with ⟨f, i, -, -, he⟩ | ⟨f, e, -, -, rfl⟩ | ⟨f, rest, -, -, rfl⟩ | ⟨u, hu, rfl⟩
  · exact .inl (exec_extends he)
  · exact .inl ⟨rfl, List.prefix_rfl⟩
  · exact .inl ⟨rfl, List.prefix_rfl⟩
  · obtain ⟨hhost, -, -, hfaults, -, -, -, hparams, -⟩ := hu.fields
    rcases hostTurn_extends_or_reset u with ⟨hp, hf⟩ | ⟨rest, hr, e⟩
    · exact .inl ⟨hp.trans hparams, hfaults ▸ hf⟩
    · exact .inr ⟨u, rest, hu, hhost ▸ hr, e⟩

/-- Settles O21: a step keeps every recorded fault unless it is the host's reset. -/
theorem faultsAreNeverCleared : Obligations.FaultsAreNeverCleared := by
  intro s t h
  rcases step_extends_or_reset h with hx | ⟨u, rest, hu, hr, -⟩
  · exact .inl hx.faults
  · exact .inr ⟨u, rest, hu, hr⟩

/-- Settles O23: a step keeps the parameters, and the host's reset leaves them as they are. -/
theorem parametersNeverChange : Obligations.ParametersNeverChange := by
  intro s t h
  rcases step_extends_or_reset h with hx | ⟨u, rest, hu, -, rfl⟩
  · exact hx.params
  · obtain ⟨-, -, -, -, -, -, -, hparams, -⟩ := hu.fields
    exact hparams

end Sys2Proof.Machine
end

section
/-! PROOFS. The hexadecimal rendering (R12) and its reading back (R170). -/

namespace Sys2Proof.Machine

/-- The digit values of the k-digit rendering of `v`, most significant first (R12). -/
def hexValues (k v : Nat) : List Nat := (List.range k).map fun i => v / 16 ^ (k - 1 - i) % 16

theorem hexText_eq_map_hexValues (k v : Nat) : hexText k v = (hexValues k v).map hexDigit := by
  simp [hexText, hexValues]

theorem hexText_length (k v : Nat) : (hexText k v).length = k := by simp [hexText]

theorem hexText_getElem? {k v i : Nat} (hi : i < k) :
    (hexText k v)[i]? = some (hexDigit (v / 16 ^ (k - 1 - i) % 16)) := by
  simp [hexText, hi]

theorem hexDigit_eq_ofNat (d : Nat) :
    hexDigit d = BitVec.ofNat 8 (if d ≤ 9 then 0x30 + d else 0x41 + (d - 10)) := by
  unfold hexDigit
  split <;> rfl

theorem hexValues_lt {k v d : Nat} (h : d ∈ hexValues k v) : d < 16 := by
  obtain ⟨i, -, rfl⟩ := List.mem_map.mp h
  exact Nat.mod_lt _ (by decide)

/-- The last digit of a rendering is the remainder by 16, and the digits before it render the quotient. -/
theorem hexValues_succ (k v : Nat) : hexValues (k + 1) v = hexValues k (v / 16) ++ [v % 16] := by
  have front : ∀ i ∈ List.range k, v / 16 ^ (k + 1 - 1 - i) % 16 = v / 16 / 16 ^ (k - 1 - i) % 16 := by
    intro i hi
    have hk : k + 1 - 1 - i = k - 1 - i + 1 := by have := List.mem_range.mp hi; omega
    rw [hk, pow_succ', Nat.div_div_eq_div_mul]
  simp only [hexValues, List.range_succ, List.map_append, List.map_congr_left front]
  simp

theorem ofDigits_hexValues {k v : Nat} (h : v < 16 ^ k) : Nat.ofDigits 16 (hexValues k v).reverse = v := by
  induction k generalizing v with
  | zero =>
    obtain rfl : v = 0 := by simpa using h
    rfl
  | succ k ih =>
    have hq : v / 16 < 16 ^ k := Nat.div_lt_of_lt_mul (by rwa [pow_succ'] at h)
    rw [hexValues_succ, List.reverse_append, List.reverse_singleton, List.singleton_append, Nat.ofDigits_cons, ih hq]
    exact Nat.mod_add_div v 16

/-- The byte of a digit value reads back as that value, whatever HEX_LOWER_OK is (R12, R170). -/
theorem hexVal_hexDigit (p : Params) {d : Nat} (h : d < 16) : hexVal p (hexDigit d) = some d := by
  unfold hexDigit
  split
  · have hb : (BitVec.ofNat 8 (0x30 + d)).toNat = 0x30 + d := Nat.mod_eq_of_lt (by omega)
    rw [hexVal, hb, if_pos (by omega)]
    congr 1; omega
  · have hb : (BitVec.ofNat 8 (0x41 + (d - 10))).toNat = 0x41 + (d - 10) := Nat.mod_eq_of_lt (by omega)
    rw [hexVal, hb, if_neg (by omega), if_pos (by omega)]
    congr 1; omega

theorem hexText_map_hexVal (p : Params) (k v : Nat) : (hexText k v).map (hexVal p) = (hexValues k v).map some := by
  rw [hexText_eq_map_hexValues, List.map_map]
  exact List.map_congr_left fun d hd => hexVal_hexDigit p (hexValues_lt hd)

/-- Settles O49: the rendering's length, its digits, and the read-back by `ofDigits_hexValues`. -/
theorem hexTextReadsBack : Obligations.HexTextReadsBack := by
  intro p k v hv
  refine ⟨hexText_length k v, ?_, hexValues k v, hexText_map_hexVal p k v, ofDigits_hexValues hv⟩
  rintro i d hi rfl
  rw [hexText_getElem? hi, hexDigit_eq_ofNat]

end Sys2Proof.Machine
end

section
/-! PROOFS. The interface invariant: it holds at reset and every step keeps it (R25, R33, R36 to R38, R238). -/

namespace Sys2Proof.Machine

/-- A state in which no result is valid meets the invariant when its CODE and its queue do. -/
theorem State.Inv.of_noneValid {s : State} (hr : s.results.NoneValid) (hc : s.busy = true → s.code = none)
    (hq : s.queued ≠ [] → s.faults ≠ []) : s.Inv :=
  ⟨hc, fun _ => hr, hr.outShape, hq, fun _ _ => hr⟩

/-- After a fault only the shape of OUT remains to be shown of a block with nothing in flight. -/
theorem State.Inv.of_fault {s : State} (hb : s.busy = false) (hf : s.faults ≠ []) (ho : s.results.OutShape) : s.Inv :=
  ⟨fun h => absurd h (by simp [hb]), fun h => absurd h (by simp [hb]), ho, fun _ => hf, fun h => absurd h hf⟩

/-- The invariant speaks of BUSY, CODE, the results, the queue and the faults alone, and a further fault keeps it. -/
theorem State.Inv.of_same {s t : State} (h : s.Inv) (hb : t.busy = s.busy) (hc : t.code = s.code)
    (hr : t.results = s.results) (hq : t.queued = s.queued) (hf : s.faults <+: t.faults) : t.Inv := by
  have clean : t.faults = [] → s.faults = [] := fun e => List.prefix_nil.mp (e ▸ hf)
  constructor
  case busyCode => rw [hb, hc]; exact h.busyCode
  case busyResults => rw [hb, hr]; exact h.busyResults
  case outShape => rw [hr]; exact h.outShape
  case queuedFault => rw [hq]; exact fun q e => h.queuedFault q (clean e)
  case onlyOk => rw [hc, hr]; exact fun e => h.onlyOk (clean e)

theorem State.Inv.record {s : State} (h : s.Inv) (k : ProtocolFault) : (s.record k).Inv :=
  h.of_same rfl rfl rfl rfl (List.prefix_append ..)

theorem State.Inv.hostTurnFrom {s u : State} (h : s.Inv) (hu : HostTurnFrom s u) : u.Inv := by
  obtain ⟨-, -, hresults, hfaults, hcode, hbusy, -, -, -, -, hqueued⟩ := hu.fields
  exact h.of_same hbusy hcode hresults hqueued (hfaults ▸ List.prefix_rfl)

theorem State.Inv.complete {s : State} {c : Completion} (h : s.Inv) (hc : c.outcome ≠ .ok → c.results = noResults) :
    (s.complete c).Inv := by
  constructor
  case busyCode => exact fun hb => absurd hb (by simp [State.busy])
  case busyResults => exact fun hb => absurd hb (by simp [State.busy])
  case outShape => exact ResultRegs.publish_outShape ..
  case queuedFault => exact h.queuedFault
  case onlyOk => exact fun _ hne => ResultRegs.publish_noneValid (hc fun e => hne (congrArg some e))

theorem completeFree_inv (s : State) : s.completeFree.Inv :=
  .of_fault rfl (by simp) (ResultRegs.publish_outShape ..)

theorem State.Inv.exec {i : Instr} {s t : State} (h : s.Inv) (he : exec i s = .next t) : t.Inv := by
  obtain ⟨f, -, ⟨-, rfl⟩ | ⟨-, rfl⟩⟩ := exec_cases he
  · exact h.complete completionOf_fails
  · exact completeFree_inv s

theorem State.Inv.completeIllegal {s : State} (h : s.Inv) : s.completeIllegal.Inv := h.complete fun _ => rfl

theorem State.Inv.startNext {s : State} (h : s.Inv) (w : Word) : (s.startNext w).Inv :=
  .of_noneValid (ResultRegs.invalidate_noneValid _) (fun _ => rfl) h.queuedFault

theorem State.Inv.startQueued {s : State} {f : InFlight} {rest : List InFlight} (h : s.Inv)
    (hq : s.queued = f :: rest) : (s.startQueued f rest).Inv :=
  .of_noneValid (ResultRegs.invalidate_noneValid _) (fun _ => rfl) fun _ => h.queuedFault (by simp [hq])

/-- Whatever answer to a CMD write while busy is drawn: a command still in flight finds CODE 0 and no valid result. -/
theorem State.Inv.writeWhileBusy {s : State} (h : s.Inv) (hb : s.busy = true) : s.writeWhileBusy.Inv := by
  rcases writeWhileBusy_cases s with ⟨f, rest, e⟩ | ⟨code, q, e⟩
  · rw [e]; exact .of_noneValid (h.busyResults hb) (fun _ => h.busyCode hb) (by simp)
  · rw [e]; exact .of_fault rfl (by simp) (ResultRegs.publish_outShape ..)

theorem State.Inv.writeReg {s : State} (h : s.Inv) (r : RegNum) (v : Word) : (s.writeReg r v).Inv := by
  rcases writeReg_cases s r v with ⟨-, e⟩ | ⟨hb, e⟩ | ⟨o, e⟩ | ⟨k, e⟩
  · rw [e]; exact h.startNext v
  · rw [e]; exact h.writeWhileBusy hb
  · rw [e]; exact h.of_same rfl rfl rfl rfl List.prefix_rfl
  · rw [e]; exact h.record k

theorem State.Inv.readReg {s : State} (h : s.Inv) (r : RegNum) : (s.readReg r).2.Inv := by
  rcases readReg_cases s r with e | ⟨k, e⟩
  · rw [e]; exact h
  · rw [e]; exact h.of_same rfl rfl rfl rfl (List.prefix_append ..)

theorem hostReset_inv (s : State) : s.hostReset.Inv :=
  .of_noneValid ResultRegs.invalid_noneValid (fun _ => rfl) (absurd rfl)

theorem State.Inv.performMove {s : State} (h : s.Inv) (m : HostMove) : (performMove s m).Inv := by
  rcases performMove_cases s m with ⟨-, e⟩ | ⟨r, v, -, e⟩ | ⟨r, more, e⟩
  · rw [e]; exact hostReset_inv s
  · rw [e]; exact h.writeReg r v
  · rw [e]; exact (h.readReg r).of_same rfl rfl rfl rfl List.prefix_rfl

theorem State.Inv.hostTurn {s : State} (h : s.Inv) : (hostTurn s).Inv := by
  unfold Machine.hostTurn
  cases s.host with
  | nil => exact h
  | cons m rest =>
    have hrest : State.Inv { s with host := rest } := h.of_same rfl rfl rfl rfl List.prefix_rfl
    exact hrest.performMove m

/-- Settles O3: completing, starting a queued command and the host's turn each keep the invariant. -/
theorem stepKeepsTheInvariant : Obligations.StepKeepsTheInvariant := by
  intro s t h hs
  rcases step_cases hs with ⟨f, i, -, -, he⟩ | ⟨f, e, -, -, rfl⟩ | ⟨f, rest, -, hq, rfl⟩ | ⟨u, hu, rfl⟩
  · exact h.exec he
  · exact h.completeIllegal
  · exact h.startQueued hq
  · exact (h.hostTurnFrom hu).hostTurn

/-- Settles O2: reset leaves no result valid, nothing in flight and nothing queued. -/
theorem invariantHoldsAtReset : Obligations.InvariantHoldsAtReset :=
  .of_noneValid ResultRegs.invalid_noneValid (fun _ => rfl) (absurd rfl)

end Sys2Proof.Machine
end

section
/-! PROOFS. Host accesses to the registers: what each write and read does by register number (R27 to R38, R61, R65), and
a CMD write to an idle block (R36). -/

namespace Sys2Proof.Machine

/-! ## The access a register number makes -/

theorem writeReg_dig (s : State) (i : Fin 20) (v : Word) :
    s.writeReg (BitVec.ofNat 10 (0x020 + i.val)) v =
      { s with operands := { s.operands with dig := s.operands.dig.set i (writtenWith 8 v) } } := by
  rw [State.writeReg, regOfNumber_dig]

theorem writeReg_inp (s : State) (i : Fin 255) (v : Word) :
    s.writeReg (BitVec.ofNat 10 (0x100 + i.val)) v =
      { s with operands := { s.operands with inp := s.operands.inp.set i (writtenWith 8 v) } } := by
  rw [State.writeReg, regOfNumber_inp]

theorem readReg_dig (s : State) (i : Fin 20) :
    s.readReg (BitVec.ofNat 10 (0x020 + i.val)) = s.readOperand s.operands.dig[i] := by
  rw [State.readReg, regOfNumber_dig]

theorem readReg_inp (s : State) (i : Fin 255) :
    s.readReg (BitVec.ofNat 10 (0x100 + i.val)) = s.readOperand s.operands.inp[i] := by
  rw [State.readReg, regOfNumber_inp]

theorem readReg_out (s : State) (i : Fin 16) :
    s.readReg (BitVec.ofNat 10 (0x010 + i.val)) = s.readResult s.results.out[i] := by
  rw [State.readReg, regOfNumber_out]

/-- In the host's turn a write of a register number is that write, with the move taken from the host's list. -/
theorem step_write {s u : State} {r : RegNum} {v : Word} {rest : List HostMove} (hu : HostTurnFrom s u)
    (hm : s.host = .wr r v :: rest) : step s = .next ({ u with host := rest }.writeReg r v) := step_move hu hm

theorem step_read {s u : State} {r : RegNum} {rest : List HostMove} (hu : HostTurnFrom s u)
    (hm : s.host = .rd r :: rest) : step s = .next (observe ({ u with host := rest }.readReg r)) := step_move hu hm

/-- Settles O10: the host's turn is the write, and each operand register's number selects that register. -/
theorem operandWriteKeepsItsBitsAndMarksIt : Obligations.OperandWriteKeepsItsBitsAndMarksIt := by
  intro s u r v rest hu hm
  rw [step_write hu hm]
  refine ⟨?_, ?_, ?_, ?_, ?_⟩
  · rintro rfl; rfl
  · rintro rfl; rfl
  · rintro rfl; rfl
  · rintro i rfl; rw [writeReg_dig]; rfl
  · rintro i rfl; rw [writeReg_inp]; rfl

/-! ## Reads -/

/-- A read that answers `v` and leaves the state as it is returns `v` and does nothing else. -/
theorem readsPlainly_of_readReg {s u : State} {r : RegNum} {v : Word} {rest : List HostMove} (hu : HostTurnFrom s u)
    (hm : s.host = .rd r :: rest) (h : State.readReg { u with host := rest } r = (v, { u with host := rest })) :
    ReadsPlainly s u rest v := by
  rw [ReadsPlainly, step_read hu hm, h]
  rfl

theorem readsFaultily_of_readReg {s u : State} {r : RegNum} {k : ProtocolFault} {rest : List HostMove}
    (hu : HostTurnFrom s u) (hm : s.host = .rd r :: rest)
    (h : State.readReg { u with host := rest } r = State.faultyRead { u with host := rest } k) :
    ReadsFaultily s u rest k := by
  refine ⟨Config.freeRead u.fresh, ?_⟩
  rw [step_read hu hm, h]
  rfl

/-- A register number whose access is a read of the operand register `m` reads it by the rule of R35. -/
theorem operandReadRule_of_readReg {w : Nat} {s u : State} {rest : List HostMove} {r : RegNum} {m : Marked w}
    (hu : HostTurnFrom s u) (hr : ∀ t : State, t.operands = s.operands → t.readReg r = t.readOperand m) :
    OperandReadRule s u rest r m := by
  intro hm
  obtain ⟨-, hoperands, -⟩ := hu.fields
  have access := hr { u with host := rest } hoperands
  rcases readOperand_cases { u with host := rest } m with ⟨hmark, e⟩ | ⟨hmark, e⟩
  · exact ⟨fun _ => readsPlainly_of_readReg hu hm (access.trans e), fun h => by simp [hmark] at h⟩
  · exact ⟨fun h => by simp [hmark] at h, fun _ => readsFaultily_of_readReg hu hm (access.trans e)⟩

/-- Settles O11: each operand register's number reads that register. -/
theorem operandReadReturnsTheKeptBits : Obligations.OperandReadReturnsTheKeptBits := by
  intro s u rest hu
  refine ⟨?_, ?_, ?_, fun i => ?_, fun i => ?_⟩
  · exact operandReadRule_of_readReg hu fun t ht => ht ▸ rfl
  · exact operandReadRule_of_readReg hu fun t ht => ht ▸ rfl
  · exact operandReadRule_of_readReg hu fun t ht => ht ▸ rfl
  · exact operandReadRule_of_readReg hu fun t ht => ht ▸ readReg_dig t i
  · exact operandReadRule_of_readReg hu fun t ht => ht ▸ readReg_inp t i

/-- A register number whose access is a read of the result register `m` reads it by the rule of R37. -/
theorem resultReadRule_of_readReg {w : Nat} {s u : State} {rest : List HostMove} {r : RegNum} {m : Marked w}
    (hu : HostTurnFrom s u) (hr : ∀ t : State, t.results = s.results → t.readReg r = t.readResult m) :
    ResultReadRule s u rest r m := by
  intro hm
  obtain ⟨-, -, hresults, -, -, hbusy, -⟩ := hu.fields
  have access := hr { u with host := rest } hresults
  rw [← hbusy]
  rcases readResult_cases { u with host := rest } m with ⟨⟨hmark, hidle⟩, e⟩ | ⟨hbad, e⟩
  · refine ⟨fun _ => readsPlainly_of_readReg hu hm (access.trans e), ?_⟩
    rintro (h | h)
    · simp [hmark] at h
    · exact absurd (hidle.symm.trans h) (by decide)
  · refine ⟨fun ⟨hmark, hidle⟩ => ?_, fun _ => readsFaultily_of_readReg hu hm (access.trans e)⟩
    rcases hbad with h | h
    · simp [hmark] at h
    · exact absurd (hidle.symm.trans h) (by decide)

/-- Settles O12: each result register's number reads that register. -/
theorem resultReadNeedsAValidRegister : Obligations.ResultReadNeedsAValidRegister := by
  intro s u rest hu
  refine ⟨?_, ?_, ?_, fun i => ?_⟩
  · exact resultReadRule_of_readReg hu fun t ht => ht ▸ rfl
  · exact resultReadRule_of_readReg hu fun t ht => ht ▸ rfl
  · exact resultReadRule_of_readReg hu fun t ht => ht ▸ rfl
  · exact resultReadRule_of_readReg hu fun t ht => ht ▸ readReg_out t i

/-! ## STATUS -/

/-- STATUS as a number: BUSY has the weight 16 and CODE the weight 1 (R25). -/
theorem statusWord_toNat (s : State) : s.statusWord.toNat = s.busy.toNat * 16 + (codeBits s.code).toNat := by
  have key : ∀ (b : Bool) (c : BitVec 4), (bitAt 4 b ||| c.setWidth 32).toNat = b.toNat * 16 + c.toNat := by decide
  exact key s.busy (codeBits s.code)

/-- BUSY and CODE alone make the word of STATUS (R25). -/
theorem statusWord_congr {s t : State} (hb : t.busy = s.busy) (hc : t.code = s.code) : t.statusWord = s.statusWord := by
  rw [State.statusWord, hb, hc, State.statusWord]

theorem statusValue_statusWord (s : State) : StatusValue s s.statusWord := by
  refine ⟨?_, ?_, ?_⟩
  · apply BitVec.eq_of_toNat_eq
    have hb := Bool.toNat_le s.busy
    have hc := (codeBits s.code).isLt
    rw [BitVec.extractLsb'_toNat, statusWord_toNat, Nat.shiftRight_eq_div_pow, Nat.div_eq_of_lt (by omega)]
    rfl
  · simp [State.statusWord, bitAt, State.busy, Option.isSome_iff_ne_none]
  · rw [statusWord_toNat, Nat.mul_add_mod_of_lt (codeBits s.code).isLt]
    rcases s.code with _ | _ | _ | _ | _ | _ <;> rfl

/-- Settles O13: a read of STATUS returns the status word, which is the same after the turn is used up. -/
theorem statusReadReturnsBusyAndCode : Obligations.StatusReadReturnsBusyAndCode := by
  intro s u rest hu hm
  obtain ⟨-, -, -, -, hcode, hbusy, -⟩ := hu.fields
  refine ⟨s.statusWord, ?_, statusValue_statusWord s⟩
  have hv : State.statusWord { u with host := rest } = s.statusWord := statusWord_congr hbusy hcode
  exact hv ▸ readsPlainly_of_readReg hu hm rfl

/-! ## A CMD write to an idle block -/

/-- A CMD write while nothing is in flight or queued starts the command (R36). -/
theorem step_startNext {s : State} {w : Word} {rest : List HostMove} (hf : s.inFlight = none) (hq : s.queued = [])
    (hm : s.host = .wr 0x000 w :: rest) : step s = .next (State.startNext { s with host := rest } w) := by
  rw [step_write (.inl ⟨hf, hq, rfl⟩) hm, writeReg_cmd, writeCmd_idle (s := { s with host := rest }) w hf]

theorem nextLatency_cons {s : State} {n : Nat} {ns : List Nat} (h : s.latencies = n :: ns) : s.nextLatency = n := by
  rw [State.nextLatency, h]

theorem startNext_statusWord (s : State) (w : Word) : (s.startNext w).statusWord = 0x10 := by
  have h := statusWord_toNat (s.startNext w)
  exact BitVec.eq_of_toNat_eq h

/-- Settles O16: the step starts the command, and the fields of the state after a start are as stated. -/
theorem cmdWriteStartsTheCommand : Obligations.CmdWriteStartsTheCommand := by
  intro s w rest hf hq hm
  refine ⟨_, _, step_startNext hf hq hm, State.startNext_inFlight .., rfl, rfl, startNext_statusWord ..,
    ResultRegs.invalidate_noneValid _, rfl, rfl, rfl, rfl, hq, rfl, fun n ns hl => ⟨nextLatency_cons hl, ?_⟩⟩
  simp [hl]

end Sys2Proof.Machine
end

section
/-! PROOFS. Operand registers change only by a host write of one or by reset (R35, R261, R265). -/

namespace Sys2Proof.Machine

theorem ofNat_add_sub {r : RegNum} {b : Nat} (h : b ≤ r.toNat) : BitVec.ofNat 10 (b + (r.toNat - b)) = r := by
  rw [Nat.add_sub_cancel' h, BitVec.ofNat_toNat, BitVec.setWidth_eq]

/-- The register a number names has that number (R61): eight registers of their own, then the three ranges. -/
theorem regNumber_of_regOfNumber {r : RegNum} {g : Reg} (h : regOfNumber r = some g) : regNumber g = r := by
  unfold regOfNumber at h
  iterate 8
    rcases ite_eq_iff.mp h with ⟨rfl, e⟩ | ⟨-, h⟩
    · cases e; rfl
  iterate 3
    rcases dite_eq_iff.mp h with ⟨hr, e⟩ | ⟨-, h⟩
    · cases e; exact ofNat_add_sub hr.1
  cases h

theorem operandNumber_dig (i : Fin 20) : OperandNumber (regNumber (.dig i)) := by
  have h : (regNumber (.dig i)).toNat = 0x020 + i.val := Nat.mod_eq_of_lt (by omega)
  exact .inr (.inr (.inr (.inl (by omega))))

theorem operandNumber_inp (i : Fin 255) : OperandNumber (regNumber (.inp i)) := by
  have h : (regNumber (.inp i)).toNat = 0x100 + i.val := Nat.mod_eq_of_lt (by omega)
  exact .inr (.inr (.inr (.inr (by omega))))

theorem writeWhileBusy_operands (s : State) : s.writeWhileBusy.operands = s.operands := by
  rcases writeWhileBusy_cases s with ⟨f, rest, e⟩ | ⟨code, q, e⟩
  · rw [e]; rfl
  · rw [e]; rfl

theorem writeCmd_operands (s : State) (v : Word) : (s.writeCmd v).operands = s.operands := by
  cases hf : s.inFlight with
  | none => rw [writeCmd_idle v hf]; rfl
  | some f => rw [writeCmd_busy v hf, writeWhileBusy_operands]

/-- A host write that changes an operand register is a write of an operand register's number (R65, R66). -/
theorem writeReg_operands (s : State) (r : RegNum) (v : Word) :
    (s.writeReg r v).operands = s.operands ∨ OperandNumber r := by
  unfold State.writeReg
  cases h : regOfNumber r with
  | none => exact .inl rfl
  | some g =>
    obtain rfl := regNumber_of_regOfNumber h
    cases g
    case cmd => exact .inl (writeCmd_operands s v)
    case charIn => exact .inr (.inl rfl)
    case payIn => exact .inr (.inr (.inl rfl))
    case codeIn => exact .inr (.inr (.inr (.inl rfl)))
    case dig i => exact .inr (operandNumber_dig i)
    case inp i => exact .inr (operandNumber_inp i)
    all_goals exact .inl rfl

theorem readReg_operands (s : State) (r : RegNum) : (s.readReg r).2.operands = s.operands := by
  rcases readReg_cases s r with e | ⟨k, e⟩
  · rw [e]
  · rw [e]; rfl

/-- The moves of the host that may change an operand register (R35, R265). -/
theorem performMove_operands (s : State) (m : HostMove) :
    (performMove s m).operands = s.operands ∨ m = .reset ∨ ∃ r v, OperandNumber r ∧ m = .wr r v := by
  rcases performMove_cases s m with ⟨hm, -⟩ | ⟨r, v, hm, e⟩ | ⟨r, more, e⟩
  · exact .inr (.inl hm)
  · rw [e]; exact (writeReg_operands s r v).imp id fun hr => .inr ⟨r, v, hr, hm⟩
  · rw [e]; exact .inl (readReg_operands s r)

theorem exec_operands {i : Instr} {s t : State} (h : exec i s = .next t) : t.operands = s.operands := by
  obtain ⟨f, -, ⟨-, rfl⟩ | ⟨-, rfl⟩⟩ := exec_cases h
  · rfl
  · rfl

theorem hostTurn_operands (s : State) :
    (hostTurn s).operands = s.operands ∨
      ∃ rest, s.host = .reset :: rest ∨ ∃ r v, OperandNumber r ∧ s.host = .wr r v :: rest := by
  unfold hostTurn
  cases s.host with
  | nil => exact .inl rfl
  | cons m rest =>
    rcases performMove_operands { s with host := rest } m with e | rfl | ⟨r, v, hr, rfl⟩
    · exact .inl e
    · exact .inr ⟨rest, .inl rfl⟩
    · exact .inr ⟨rest, .inr ⟨r, v, hr, rfl⟩⟩

/-- Settles O22: of the steps, only the host's turn can change an operand register, by a write of one or a reset. -/
theorem operandsChangeOnlyByHostWriteOrReset : Obligations.OperandsChangeOnlyByHostWriteOrReset := by
  intro s t h
  rcases step_cases h with ⟨f, i, -, -, he⟩ | ⟨f, e, -, -, rfl⟩ | ⟨f, rest, -, -, rfl⟩ | ⟨u, hu, rfl⟩
  · exact .inl (exec_operands he)
  · exact .inl rfl
  · exact .inl rfl
  · obtain ⟨hhost, hoperands, -⟩ := hu.fields
    rcases hostTurn_operands u with e | ⟨rest, hm⟩
    · exact .inl (e.trans hoperands)
    · exact .inr ⟨u, rest, hu, hhost ▸ hm⟩

end Sys2Proof.Machine
end

section
/-! PROOFS. The word of a command reads back (R93, R95), and the snapshot holds what its operation reads (R36, R92). -/

namespace Sys2Proof.Machine

/-! ## The word of a command -/

theorem lenField_commandWord_of_lenOk {len : Nat} (op : Byte) (p h : Bool) (hl : lenOk len = true) :
    lenField (commandWord op len p h) = len := by
  rw [lenField_commandWord, Nat.mod_eq_of_lt (of_decide_eq_true hl)]

theorem decodeClassS_commandWord {len : Nat} (op : Byte) (p : Bool) (i : Bool → Nat → Instr) (hl : lenOk len = true) :
    decodeClassS (commandWord op len p false) i = .ok (i p len) := by
  simp [decodeClassS, lenField_commandWord_of_lenOk _ _ _ hl]

/-- The word of a well-formed command decodes to the command (R93, R95). -/
theorem decode_encode {i : Instr} (h : i.wellFormed = true) : decode (encode i) = .ok i := by
  cases i with
  | chcls | ch6 | pargen | parchk => decide
  | w26enc hashOk => cases hashOk <;> decide
  | san26 p n | san64 p n | w26dfc p n | w26did p n | w26dpl p n | w26dcc p n | w64enc p n =>
    simp [decode, encode, decodeClassS_commandWord _ _ _ h]

/-! ## What the snapshot holds -/

theorem captureWord_of_decode {w : Word} {i : Instr} (h : decode w = .ok i) (o : Operands) :
    captureWord w o = captureFor i o := by rw [captureWord, h]

theorem Captured.of_read {w : Nat} {reads : Prop} {snap reg : Marked w} (h : reads) (e : snap = reg) :
    Captured reads snap reg := ⟨fun _ => e, absurd h⟩

theorem Captured.of_unread {w : Nat} {reads : Prop} {snap reg : Marked w} (h : ¬reads) (e : snap.mark = false) :
    Captured reads snap reg := ⟨fun r => absurd r h, fun _ => e⟩

theorem captureFor_charIn (i : Instr) (o : Operands) :
    Captured (i = .chcls ∨ i = .ch6) (captureFor i o).charIn o.charIn := by
  cases i with
  | chcls => exact .of_read (.inl rfl) rfl
  | ch6 => exact .of_read (.inr rfl) rfl
  | pargen | parchk => exact .of_unread (by simp) rfl
  | w26enc hashOk => exact .of_unread (by simp) (by cases hashOk <;> rfl)
  | san26 p n | san64 p n | w26dfc p n | w26did p n | w26dpl p n | w26dcc p n | w64enc p n =>
    exact .of_unread (by simp) (by cases p <;> rfl)

theorem captureFor_payIn (i : Instr) (o : Operands) : Captured (i = .pargen) (captureFor i o).payIn o.payIn := by
  cases i with
  | pargen => exact .of_read rfl rfl
  | chcls | ch6 | parchk => exact .of_unread (by simp) rfl
  | w26enc hashOk => exact .of_unread (by simp) (by cases hashOk <;> rfl)
  | san26 p n | san64 p n | w26dfc p n | w26did p n | w26dpl p n | w26dcc p n | w64enc p n =>
    exact .of_unread (by simp) (by cases p <;> rfl)

theorem captureFor_codeIn (i : Instr) (o : Operands) : Captured (i = .parchk) (captureFor i o).codeIn o.codeIn := by
  cases i with
  | parchk => exact .of_read rfl rfl
  | chcls | ch6 | pargen => exact .of_unread (by simp) rfl
  | w26enc hashOk => exact .of_unread (by simp) (by cases hashOk <;> rfl)
  | san26 p n | san64 p n | w26dfc p n | w26did p n | w26dpl p n | w26dcc p n | w64enc p n =>
    exact .of_unread (by simp) (by cases p <;> rfl)

theorem unwritten_dig_mark (j : Fin 20) : Operands.unwritten.dig[j].mark = false := by
  simp [Operands.unwritten, Marked.unset]

theorem unwritten_inp_mark (j : Fin 255) : Operands.unwritten.inp[j].mark = false := by
  simp [Operands.unwritten, Marked.unset]

/-- W26ENC with HASH_OK is the one command that captures digest bytes (R92). -/
theorem captureFor_dig_of_ne {i : Instr} (h : i ≠ .w26enc true) (o : Operands) :
    (captureFor i o).dig = Operands.unwritten.dig := by
  cases i with
  | chcls | ch6 | pargen | parchk => rfl
  | w26enc hashOk =>
    cases hashOk with
    | false => rfl
    | true => exact absurd rfl h
  | san26 p n | san64 p n | w26dfc p n | w26did p n | w26dpl p n | w26dcc p n | w64enc p n => cases p <;> rfl

theorem captureFor_dig (i : Instr) (o : Operands) (j : Fin 20) :
    Captured (i = .w26enc true ∧ 17 ≤ j.val) (captureFor i o).dig[j] o.dig[j] := by
  by_cases hi : i = .w26enc true
  · subst hi
    by_cases hj : 17 ≤ j.val
    · exact .of_read ⟨rfl, hj⟩ (by simp [captureFor, captureDigest, hj])
    · exact .of_unread (fun h => hj h.2) (by simp [captureFor, captureDigest, hj, Marked.unset])
  · exact .of_unread (fun h => hi h.1) (captureFor_dig_of_ne hi o ▸ unwritten_dig_mark j)

theorem captureFor_of_stringLen {i : Instr} {len : Nat} (h : stringLen i = some len) (o : Operands) :
    captureFor i o = captureInput true len o := by
  cases i with
  | chcls | ch6 | pargen | parchk | w26enc _ => cases h
  | san26 p n | san64 p n | w26dfc p n | w26did p n | w26dpl p n | w26dcc p n | w64enc p n =>
    cases p with
    | false => cases h
    | true => cases h; rfl

theorem captureFor_inp_of_stringLen_none {i : Instr} (h : stringLen i = none) (o : Operands) :
    (captureFor i o).inp = Operands.unwritten.inp := by
  cases i with
  | chcls | ch6 | pargen | parchk => rfl
  | w26enc hashOk => cases hashOk <;> rfl
  | san26 p n | san64 p n | w26dfc p n | w26did p n | w26dpl p n | w26dcc p n | w64enc p n =>
    cases p with
    | false => rfl
    | true => cases h

theorem captureFor_inp (i : Instr) (o : Operands) (j : Fin 255) :
    Captured (∃ len, stringLen i = some len ∧ j.val < len) (captureFor i o).inp[j] o.inp[j] := by
  cases h : stringLen i with
  | none => exact .of_unread (by simp) (captureFor_inp_of_stringLen_none h o ▸ unwritten_inp_mark j)
  | some len =>
    rw [captureFor_of_stringLen h]
    by_cases hj : j.val < len
    · exact .of_read ⟨len, rfl, hj⟩ (by simp [captureInput, hj])
    · exact .of_unread (by simpa using hj) (by simp [captureInput, hj, Marked.unset])

/-- Settles O17: the snapshot is the capture of the decoded command, register by register. -/
theorem snapshotHoldsTheOperandsRead : Obligations.SnapshotHoldsTheOperandsRead := by
  intro s w rest i hd hf hq hm
  refine ⟨_, _, step_startNext hf hq hm, State.startNext_inFlight .., ?_⟩
  simp only [captureWord_of_decode hd]
  exact ⟨captureFor_charIn i _, captureFor_payIn i _, captureFor_codeIn i _, captureFor_dig i _, captureFor_inp i _⟩

end Sys2Proof.Machine
end

section
/-! PROOFS. The completion of a command: the step that runs it (R36, R70), what it computes from the snapshot (R36, R92)
and what it leaves alone (R232), and UnwrittenOperand (R35, R240). -/

namespace Sys2Proof.Machine

/-! ## The step that runs the command -/

theorem step_exec {s : State} {f : InFlight} {i : Instr} (hf : s.inFlight = some f) (hw : f.wait = 0)
    (hd : decode f.word = .ok i) : step s = exec i s := by
  rw [step_completes hf hw, runWord, hd]

/-- Settles O8: the completion step is the decoded command, and every other step of these is the host's turn. -/
theorem stepRunsTheDecodedCommand : Obligations.StepRunsTheDecodedCommand := by
  refine ⟨fun s f i hf hw hd => step_exec hf hw hd, fun s u hu => step_hostTurn hu, fun s u hu hm => ?_⟩
  obtain ⟨hhost, -⟩ := hu.fields
  rw [step_hostTurn hu, hostTurn, hhost.trans hm]

/-! ## Completion -/

/-- Settles O20: a completion publishes its results over the state's own, and touches no other field but CODE. -/
theorem everyCommandKeepsOperandsAndHost : Obligations.EveryCommandKeepsOperandsAndHost := by
  intro i s t h
  obtain ⟨f, -, ⟨-, rfl⟩ | ⟨-, rfl⟩⟩ := exec_cases h
  · exact ⟨rfl, rfl, rfl, rfl, rfl, rfl, rfl, Option.some_ne_none _, .inl rfl, ResultRegs.publish_outShape ..⟩
  · exact ⟨rfl, rfl, rfl, rfl, rfl, rfl, rfl, Option.some_ne_none _, .inr rfl, ResultRegs.publish_outShape ..⟩

theorem operandsWritten_of_stringLen {i : Instr} {len : Nat} (h : stringLen i = some len) (o : Operands) :
    operandsWritten i o = inputWritten len o := by
  cases i with
  | chcls | ch6 | pargen | parchk | w26enc _ => cases h
  | san26 p n | san64 p n | w26dfc p n | w26did p n | w26dpl p n | w26dcc p n | w64enc p n =>
    cases p with
    | false => cases h
    | true => cases h; rfl

theorem inputWritten_iff (len : Nat) (o : Operands) :
    inputWritten len o = true ↔ ∀ j : Fin 255, j.val < len → o.inp[j].mark = true := by
  rw [inputWritten, List.all_eq_true]
  constructor
  · intro h j hj
    exact h _ (List.mem_take_iff_getElem.mpr ⟨j, by simp [hj], by simp⟩)
  · intro h m hm
    obtain ⟨j, hj, rfl⟩ := List.mem_take_iff_getElem.mp hm
    have hj' : j < len ∧ j < 255 := by simpa using hj
    simpa using h ⟨j, hj'.2⟩ hj'.1

theorem digestWritten_iff (f : InFlight) : digestWritten f.ops = true ↔ DigestReady f := by
  simp [digestWritten, DigestReady, and_assoc]

/-- Settles O19: in each of the listed cases not every operand is written, and the completion is the faulty one. -/
theorem unwrittenOperandIsAProtocolFault : Obligations.UnwrittenOperandIsAProtocolFault := by
  intro s f i hf hbad
  have hw : operandsWritten i f.ops = false := by
    rcases hbad with ⟨rfl | rfl, h⟩ | ⟨rfl, h⟩ | ⟨rfl, h⟩ | ⟨rfl, h⟩ | ⟨len, hlen, j, hj, h⟩
    · exact h
    · exact h
    · exact h
    · exact h
    · rw [← digestWritten_iff] at h
      exact Bool.eq_false_of_not_eq_true h
    · rw [operandsWritten_of_stringLen hlen]
      exact Bool.eq_false_of_not_eq_true fun hall =>
        Bool.false_ne_true (h.symm.trans ((inputWritten_iff ..).mp hall j hj))
  exact ⟨_, exec_unwritten hf hw, rfl, rfl, Option.some_ne_none _, rfl, rfl, rfl, rfl, rfl, rfl⟩

/-- Settles O31: both states publish the same completion, which hides what their result registers held before. -/
theorem completionDependsOnTheSnapshotAlone : Obligations.CompletionDependsOnTheSnapshotAlone := by
  intro i s s' f hf hf' hp hw
  have completes := exec_written hf hw
  rw [hp] at completes
  exact ⟨_, _, completes, exec_written hf' hw, rfl, ResultRegs.publish_same ..⟩

/-- A command in flight over its capture completes with what its operation gives on the registers captured (R36). -/
theorem step_completes_captured {s : State} {i : Instr} {o : Operands} (hi : i.wellFormed = true)
    (hf : s.inFlight = some ⟨encode i, captureFor i o, 0⟩) (hw : operandsWritten i o = true) :
    step s = .next (s.complete (completionOf i s.params o)) := by
  rw [step_exec hf rfl (decode_encode hi), exec_written hf ((operandsWritten_capture ..).trans hw),
    completionOf_capture]

/-- Settles O32: the command starts, then completes on its snapshot, which gives what the operand registers give. -/
theorem commandRunsOnTheOperandRegisters : Obligations.CommandRunsOnTheOperandRegisters := by
  intro s i rest ns hi hf hq hl hm hw
  have flight : (State.startNext { s with host := rest } (encode i)).inFlight =
      some ⟨encode i, captureFor i s.operands, 0⟩ := by
    rw [State.startNext_inFlight, captureWord_of_decode (decode_encode hi),
      nextLatency_cons (s := { s with host := rest }) hl]
  exact ⟨_, _, _, step_startNext hf hq hm, step_completes_captured hi flight hw, exec_written rfl hw, rfl,
    ResultRegs.publish_same .., rfl, rfl, rfl⟩

end Sys2Proof.Machine
end

section
/-! PROOFS. The register map (R61), and the accesses it gives no meaning: of a reserved number (R62), and of a register
by the wrong kind of access (R66). -/

namespace Sys2Proof.Machine

/-! ## The register map -/

@[simp] theorem regNumber_out_toNat (i : Fin 16) : (regNumber (.out i)).toNat = 0x010 + i.val :=
  Nat.mod_eq_of_lt (by omega)

@[simp] theorem regNumber_dig_toNat (i : Fin 20) : (regNumber (.dig i)).toNat = 0x020 + i.val :=
  Nat.mod_eq_of_lt (by omega)

@[simp] theorem regNumber_inp_toNat (i : Fin 255) : (regNumber (.inp i)).toNat = 0x100 + i.val :=
  Nat.mod_eq_of_lt (by omega)

theorem regOfNumber_regNumber (g : Reg) : regOfNumber (regNumber g) = some g := by
  cases g
  case out i => exact regOfNumber_out i
  case dig i => exact regOfNumber_dig i
  case inp i => exact regOfNumber_inp i
  all_goals rfl

/-- The numbers that name no register are the gaps of the map (R61): a number that is none of the eight and lies in none
of the three ranges is one of the gaps. -/
theorem regOfNumber_eq_none_iff (r : RegNum) : regOfNumber r = none ↔ ReservedNumber r := by
  simp only [regOfNumber, ite_eq_iff, dite_eq_iff, reduceCtorEq, and_false, exists_false, false_or, exists_prop, and_true]
  unfold ReservedNumber
  bv_omega

/-- Settles O9: number and register determine each other, and the reserved numbers are those left over. -/
theorem registerMapIsOneToOne : Obligations.RegisterMapIsOneToOne :=
  ⟨by decide, regNumber_out_toNat, regNumber_dig_toNat, regNumber_inp_toNat, regOfNumber_regNumber,
    fun _ _ => regNumber_of_regOfNumber, regOfNumber_eq_none_iff⟩

/-! ## Accesses that are protocol faults -/

theorem readReg_reserved (s : State) {r : RegNum} (h : ReservedNumber r) :
    s.readReg r = s.faultyRead .reservedAccess := by
  rw [State.readReg, (regOfNumber_eq_none_iff r).mpr h]

theorem writeReg_reserved (s : State) {r : RegNum} (v : Word) (h : ReservedNumber r) :
    s.writeReg r v = s.record .reservedAccess := by
  rw [State.writeReg, (regOfNumber_eq_none_iff r).mpr h]

/-- A write of a read-only register is recorded and changes no register (R66): STATUS, RES0, RES1, OUT_LEN, OUT. -/
theorem writeReg_readOnly (s : State) {r : RegNum} (v : Word) (h : ReadOnlyNumber r) :
    s.writeReg r v = s.record .accessViolation := by
  rcases h with rfl | rfl | rfl | rfl | ⟨hlo, hhi⟩
  · rfl
  · rfl
  · rfl
  · rfl
  · obtain ⟨i, rfl⟩ : ∃ i : Fin 16, BitVec.ofNat 10 (0x010 + i.val) = r :=
      ⟨⟨r.toNat - 0x010, by omega⟩, ofNat_add_sub hlo⟩
    rw [State.writeReg, regOfNumber_out]

/-- Settles O14: a reserved number names no register, so either access records the fault after those of `s`. -/
theorem reservedNumberIsAProtocolFault : Obligations.ReservedNumberIsAProtocolFault := by
  intro s u r rest hu hr
  obtain ⟨-, -, -, hfaults, -⟩ := hu.fields
  refine ⟨fun hm => ?_, fun v hm => ?_⟩
  · obtain ⟨w, e⟩ := readsFaultily_of_readReg hu hm (readReg_reserved _ hr)
    exact ⟨_, e, hfaults ▸ rfl⟩
  · exact ⟨_, step_write hu hm, by rw [writeReg_reserved _ v hr, State.record_faults, hfaults]⟩

/-- Settles O15: CMD answers a read, and a read-only register a write, with the fault and no change of a register. -/
theorem wrongAccessKindIsAProtocolFault : Obligations.WrongAccessKindIsAProtocolFault := by
  intro s u rest hu
  refine ⟨fun hm => readsFaultily_of_readReg hu hm rfl, fun r v hr hm => ?_⟩
  rw [step_write hu hm, writeReg_readOnly _ v hr]
  rfl

end Sys2Proof.Machine
end

section
/-! PROOFS. Words and commands (R81, R86 to R90, R93, R95): the fields of a word as numbers, the row a word selects, and
the words that are illegal (R89). -/

namespace Sys2Proof.Machine

/-- Settles O4: the word of a well-formed command decodes to the command. -/
theorem decodeOfEncodeIsTheCommand : Obligations.DecodeOfEncodeIsTheCommand := fun _ => decode_encode

/-- Settles O7: the decoder runs on each word. -/
theorem wordsOfTheFieldTableDecode : Obligations.WordsOfTheFieldTableDecode := by
  unfold Obligations.WordsOfTheFieldTableDecode
  decide

/-! ## The fields of a word -/

theorem extractLsb'_toNat_eq (w : Word) (k n : Nat) : (w.extractLsb' k n).toNat = w.toNat / 2 ^ k % 2 ^ n := by
  rw [BitVec.extractLsb'_toNat, Nat.shiftRight_eq_div_pow]

theorem extractLsb'_eq_zero_iff (w : Word) (k n : Nat) : w.extractLsb' k n = 0 ↔ w.toNat / 2 ^ k % 2 ^ n = 0 := by
  rw [← extractLsb'_toNat_eq, ← BitVec.toNat_inj]
  rfl

theorem opField_toNat (w : Word) : (opField w).toNat = w.toNat % 2 ^ 8 := by
  rw [opField, extractLsb'_toNat_eq, pow_zero, Nat.div_one]

theorem lenField_eq (w : Word) : lenField w = w.toNat / 2 ^ 8 % 2 ^ 8 := extractLsb'_toNat_eq ..

theorem reservedField_toNat (w : Word) : (reservedField w).toNat = w.toNat / 2 ^ 18 := by
  rw [reservedField, extractLsb'_toNat_eq]
  omega

theorem presentField_eq (w : Word) : presentField w = decide (w.toNat / 2 ^ 16 % 2 = 1) := by
  rw [presentField, ← BitVec.testBit_toNat, Nat.testBit_eq_decide_div_mod_eq]

theorem hashOkField_eq (w : Word) : hashOkField w = decide (w.toNat / 2 ^ 17 % 2 = 1) := by
  rw [hashOkField, ← BitVec.testBit_toNat, Nat.testBit_eq_decide_div_mod_eq]

theorem lenOk_lenField (w : Word) : lenOk (lenField w) = true := decide_eq_true (BitVec.isLt _)

theorem reservedField_eq_zero_iff (w : Word) : reservedField w = 0 ↔ w.toNat / 2 ^ 18 = 0 := by
  rw [← reservedField_toNat, ← BitVec.toNat_inj]
  rfl

/-- The five fields of R81 make up the word. -/
theorem word_ext {v w : Word} (hop : opField v = opField w) (hlen : lenField v = lenField w)
    (hp : presentField v = presentField w) (hh : hashOkField v = hashOkField w)
    (hr : reservedField v = reservedField w) : v = w := by
  rw [← BitVec.toNat_inj, opField_toNat, opField_toNat] at hop
  rw [lenField_eq, lenField_eq] at hlen
  rw [presentField_eq, presentField_eq, decide_eq_decide] at hp
  rw [hashOkField_eq, hashOkField_eq, decide_eq_decide] at hh
  rw [← BitVec.toNat_inj, reservedField_toNat, reservedField_toNat] at hr
  apply BitVec.eq_of_toNat_eq
  omega

theorem commandWord_fields {w : Word} (h : reservedField w = 0) :
    commandWord (opField w) (lenField w) (presentField w) (hashOkField w) = w := by
  have hlen := lenField_commandWord_of_lenOk (opField w) (presentField w) (hashOkField w) (lenOk_lenField w)
  exact word_ext (opField_commandWord ..) hlen (presentField_commandWord ..) (hashOkField_commandWord ..)
    ((reservedField_commandWord ..).trans h.symm)

/-! ## The decoding by the class of the OP -/

theorem mem_opsOfClassN (b : Byte) : b.toNat ∈ opsOfClassN ↔ b = 0x01 ∨ b = 0x02 ∨ b = 0x21 ∨ b = 0x22 := by
  simp [opsOfClassN, ← BitVec.toNat_inj]

theorem mem_opsOfClassS (b : Byte) :
    b.toNat ∈ opsOfClassS ↔
      b = 0x10 ∨ b = 0x11 ∨ b = 0x30 ∨ b = 0x31 ∨ b = 0x32 ∨ b = 0x33 ∨ b = 0x40 := by
  simp [opsOfClassS, ← BitVec.toNat_inj]

theorem decode_reserved {w : Word} (hr : reservedField w ≠ 0) : decode w = .error .reservedBits := if_pos hr

theorem decode_unassigned {w : Word} (hr : reservedField w = 0) (hN : (opField w).toNat ∉ opsOfClassN)
    (hS : (opField w).toNat ∉ opsOfClassS) (hH : opField w ≠ 0x20) : decode w = .error .unassignedOp := by
  simp_all [decode, mem_opsOfClassN, mem_opsOfClassS]

theorem decode_classN {w : Word} (hr : reservedField w = 0) (hop : (opField w).toNat ∈ opsOfClassN) :
    ∃ i : Instr, (i.wellFormed = true ∧ encode i = commandWord (opField w) 0 false false) ∧
      decode w = decodeClassN w i := by
  rcases (mem_opsOfClassN _).mp hop with h | h | h | h
  · exact ⟨.chcls, ⟨rfl, h ▸ rfl⟩, by simp [decode, hr, h]⟩
  · exact ⟨.ch6, ⟨rfl, h ▸ rfl⟩, by simp [decode, hr, h]⟩
  · exact ⟨.pargen, ⟨rfl, h ▸ rfl⟩, by simp [decode, hr, h]⟩
  · exact ⟨.parchk, ⟨rfl, h ▸ rfl⟩, by simp [decode, hr, h]⟩

theorem decode_classS {w : Word} (hr : reservedField w = 0) (hop : (opField w).toNat ∈ opsOfClassS) :
    ∃ i : Bool → Nat → Instr,
      (∀ p n, (i p n).wellFormed = lenOk n ∧ encode (i p n) = commandWord (opField w) n p false) ∧
      decode w = decodeClassS w i := by
  rcases (mem_opsOfClassS _).mp hop with h | h | h | h | h | h | h
  · exact ⟨.san26, fun _ _ => ⟨rfl, h ▸ rfl⟩, by simp [decode, hr, h]⟩
  · exact ⟨.san64, fun _ _ => ⟨rfl, h ▸ rfl⟩, by simp [decode, hr, h]⟩
  · exact ⟨.w26dfc, fun _ _ => ⟨rfl, h ▸ rfl⟩, by simp [decode, hr, h]⟩
  · exact ⟨.w26did, fun _ _ => ⟨rfl, h ▸ rfl⟩, by simp [decode, hr, h]⟩
  · exact ⟨.w26dpl, fun _ _ => ⟨rfl, h ▸ rfl⟩, by simp [decode, hr, h]⟩
  · exact ⟨.w26dcc, fun _ _ => ⟨rfl, h ▸ rfl⟩, by simp [decode, hr, h]⟩
  · exact ⟨.w64enc, fun _ _ => ⟨rfl, h ▸ rfl⟩, by simp [decode, hr, h]⟩

theorem decode_classH {w : Word} (hr : reservedField w = 0) (hop : opField w = 0x20) :
    decode w = decodeClassH w .w26enc := by simp [decode, hr, hop]

/-! ## The legal words and the illegal ones -/

/-- R89 on the fields of the word. -/
theorem illegalByRule_iff (w : Word) :
    IllegalByRule w.toNat ↔
      reservedField w ≠ 0 ∨
      ((opField w).toNat ∉ opsOfClassN ∧ (opField w).toNat ∉ opsOfClassS ∧ opField w ≠ 0x20) ∨
      ((opField w).toNat ∈ opsOfClassN ∧ w.extractLsb' 8 10 ≠ 0) ∨
      ((opField w).toNat ∈ opsOfClassS ∧ hashOkField w = true) ∨
      (opField w = 0x20 ∧ w.extractLsb' 8 9 ≠ 0) := by
  have hh : hashOkField w = true ↔ w.toNat / 2 ^ 17 % 2 ≠ 0 := by
    rw [hashOkField_eq, decide_eq_true_iff]
    omega
  have hop : opField w = 0x20 ↔ w.toNat % 2 ^ 8 = 0x20 := by rw [← BitVec.toNat_inj, opField_toNat]; rfl
  simp only [IllegalByRule, ne_eq, hh, hop, opField_toNat, reservedField_eq_zero_iff, extractLsb'_eq_zero_iff]

theorem decode_of_illegal {w : Word} (h : IllegalByRule w.toNat) : ∃ e, decode w = .error e := by
  by_cases hr : reservedField w = 0
  · rcases (illegalByRule_iff w).mp h with hbad | ⟨hN, hS, hH⟩ | ⟨hN, hbad⟩ | ⟨hS, hbad⟩ | ⟨hH, hbad⟩
    · exact absurd hr hbad
    · exact ⟨_, decode_unassigned hr hN hS hH⟩
    · obtain ⟨i, -, hd⟩ := decode_classN hr hN
      exact ⟨_, hd.trans (if_neg hbad)⟩
    · obtain ⟨i, -, hd⟩ := decode_classS hr hS
      exact ⟨_, hd.trans (if_pos hbad)⟩
    · exact ⟨_, (decode_classH hr hH).trans (if_neg hbad)⟩
  · exact ⟨_, decode_reserved hr⟩

/-- With LEN and PRESENT zero a word has only OP and HASH_OK (R87, class H). -/
theorem commandWord_of_classH {w : Word} (hr : reservedField w = 0) (hz : w.extractLsb' 8 9 = 0) :
    commandWord (opField w) 0 false (hashOkField w) = w := by
  rw [extractLsb'_eq_zero_iff] at hz
  have hlen : lenField w = 0 := by rw [lenField_eq]; omega
  have hp : presentField w = false := by rw [presentField_eq, decide_eq_false_iff_not]; omega
  simpa [hlen, hp] using commandWord_fields hr

/-- With LEN, PRESENT and HASH_OK zero a word has only OP (R87, class N). -/
theorem commandWord_of_classN {w : Word} (hr : reservedField w = 0) (hz : w.extractLsb' 8 10 = 0) :
    commandWord (opField w) 0 false false = w := by
  rw [extractLsb'_eq_zero_iff] at hz
  have hh : hashOkField w = false := by rw [hashOkField_eq, decide_eq_false_iff_not]; omega
  have hz' : w.extractLsb' 8 9 = 0 := by rw [extractLsb'_eq_zero_iff]; omega
  simpa [hh] using commandWord_of_classH hr hz'

theorem commandWord_of_classS {w : Word} (hr : reservedField w = 0) (hh : hashOkField w = false) :
    commandWord (opField w) (lenField w) (presentField w) false = w := hh ▸ commandWord_fields hr

/-- A word that R89 does not call illegal is the word of the well-formed command it decodes to. -/
theorem decode_of_legal {w : Word} (h : ¬IllegalByRule w.toNat) :
    ∃ i, decode w = .ok i ∧ i.wellFormed = true ∧ encode i = w := by
  rw [illegalByRule_iff] at h
  push Not at h
  obtain ⟨hr, hrow, hzN, hzS, hzH⟩ := h
  by_cases hN : (opField w).toNat ∈ opsOfClassN
  · obtain ⟨i, ⟨hwf, he⟩, hd⟩ := decode_classN hr hN
    exact ⟨i, hd.trans (if_pos (hzN hN)), hwf, he.trans (commandWord_of_classN hr (hzN hN))⟩
  by_cases hS : (opField w).toNat ∈ opsOfClassS
  · obtain ⟨i, hi, hd⟩ := decode_classS hr hS
    obtain ⟨hwf, he⟩ := hi (presentField w) (lenField w)
    have hh := Bool.eq_false_of_not_eq_true (hzS hS)
    exact ⟨_, hd.trans (if_neg (hzS hS)), hwf.trans (lenOk_lenField w), he.trans (commandWord_of_classS hr hh)⟩
  · have hH := hrow hN hS
    have he : commandWord 0x20 0 false (hashOkField w) = w := hH ▸ commandWord_of_classH hr (hzH hH)
    exact ⟨_, (decode_classH hr hH).trans (if_pos (hzH hH)), rfl, he⟩

theorem decode_error_iff (w : Word) : (∃ e, decode w = .error e) ↔ IllegalByRule w.toNat := by
  refine ⟨fun ⟨e, he⟩ => ?_, decode_of_illegal⟩
  by_contra h
  obtain ⟨i, hd, -⟩ := decode_of_legal h
  cases hd.symm.trans he

/-- A word that decodes is the word of a well-formed command (R88, R95). -/
theorem encode_of_decode {w : Word} {i : Instr} (h : decode w = .ok i) : i.wellFormed = true ∧ encode i = w := by
  have legal : ¬IllegalByRule w.toNat := fun hbad => by
    obtain ⟨e, he⟩ := decode_of_illegal hbad
    cases h.symm.trans he
  obtain ⟨j, hd, hj⟩ := decode_of_legal legal
  cases h.symm.trans hd
  exact hj

/-! ## Rows and masks -/

theorem commandWord_and_maskS (op : Byte) (n : Nat) (p : Bool) :
    commandWord op n p false &&& 0xFFFE00FF = op.setWidth 32 := by
  apply BitVec.eq_of_getLsbD_eq
  intro k hk
  simp only [commandWord, bitAt]
  interval_cases k <;> simp

theorem encode_and_rowMask (i : Instr) : encode i &&& i.rowMask = i.rowMatch := by
  cases i with
  | chcls | ch6 | pargen | parchk => decide
  | w26enc hashOk => cases hashOk <;> decide
  | san26 p n | san64 p n | w26dfc p n | w26did p n | w26dpl p n | w26dcc p n | w64enc p n =>
    exact commandWord_and_maskS ..

/-- The command of the row of `i` with the fields of the word `w`. -/
def withFieldsOf (w : Word) : Instr → Instr
  | .chcls => .chcls
  | .ch6 => .ch6
  | .san26 _ _ => .san26 (presentField w) (lenField w)
  | .san64 _ _ => .san64 (presentField w) (lenField w)
  | .w26enc _ => .w26enc (hashOkField w)
  | .pargen => .pargen
  | .parchk => .parchk
  | .w26dfc _ _ => .w26dfc (presentField w) (lenField w)
  | .w26did _ _ => .w26did (presentField w) (lenField w)
  | .w26dpl _ _ => .w26dpl (presentField w) (lenField w)
  | .w26dcc _ _ => .w26dcc (presentField w) (lenField w)
  | .w64enc _ _ => .w64enc (presentField w) (lenField w)

@[simp] theorem withFieldsOf_rowMatch (w : Word) (i : Instr) : (withFieldsOf w i).rowMatch = i.rowMatch := by
  cases i <;> rfl

theorem withFieldsOf_wellFormed (w : Word) (i : Instr) : (withFieldsOf w i).wellFormed = true := by
  cases i with
  | chcls | ch6 | pargen | parchk | w26enc _ => rfl
  | san26 p n | san64 p n | w26dfc p n | w26did p n | w26dpl p n | w26dcc p n | w64enc p n => exact lenOk_lenField w

theorem opField_and (v w : Word) : opField (v &&& w) = opField v &&& opField w := BitVec.extractLsb'_and

theorem reservedField_and (v w : Word) : reservedField (v &&& w) = reservedField v &&& reservedField w :=
  BitVec.extractLsb'_and

theorem hashOkField_and (v w : Word) : hashOkField (v &&& w) = (hashOkField v && hashOkField w) := BitVec.getLsbD_and

/-- Every mask covers OP and the reserved bits, so a match settles both (R88). -/
theorem fields_of_match {w m : Word} {op : Byte} (ho : opField m = BitVec.allOnes 8)
    (hr : reservedField m = BitVec.allOnes 14) (h : w &&& m = commandWord op 0 false false) :
    opField w = op ∧ reservedField w = 0 := by
  constructor
  · rw [← opField_commandWord op 0 false false, ← h, opField_and, ho, BitVec.and_allOnes]
  · rw [← reservedField_commandWord op 0 false false, ← h, reservedField_and, hr, BitVec.and_allOnes]

/-- A word that matches a row of class S is the row's word with the LEN and PRESENT of the word. -/
theorem commandWord_of_maskS {w : Word} {op : Byte} (h : w &&& 0xFFFE00FF = commandWord op 0 false false) :
    commandWord op (lenField w) (presentField w) false = w := by
  obtain ⟨rfl, hr⟩ := fields_of_match rfl rfl h
  have hh : hashOkField w = false := by
    rw [← hashOkField_commandWord (opField w) 0 false false, ← h, hashOkField_and]
    exact (Bool.and_true _).symm
  exact commandWord_of_classS hr hh

/-- A word that matches the row of W26ENC is the row's word with the HASH_OK of the word. -/
theorem commandWord_of_maskH {w : Word} (h : w &&& 0xFFFDFFFF = commandWord 0x20 0 false false) :
    commandWord 0x20 0 false (hashOkField w) = w := by
  obtain ⟨hop, hr⟩ := fields_of_match rfl rfl h
  have hz : w.extractLsb' 8 9 &&& BitVec.allOnes 9 = 0 :=
    BitVec.extractLsb'_and.symm.trans (congrArg (BitVec.extractLsb' 8 9) h)
  rw [BitVec.and_allOnes] at hz
  exact hop ▸ commandWord_of_classH hr hz

/-- A word that matches a row under its mask is the word of the row's command with the fields of the word (R88). -/
theorem encode_withFieldsOf {w : Word} {i : Instr} (h : w &&& i.rowMask = i.rowMatch) :
    encode (withFieldsOf w i) = w := by
  cases i with
  | chcls | ch6 | pargen | parchk => exact h.symm.trans BitVec.and_allOnes
  | w26enc _ => exact commandWord_of_maskH h
  | san26 p n | san64 p n | w26dfc p n | w26did p n | w26dpl p n | w26dcc p n | w64enc p n =>
    exact commandWord_of_maskS h

/-- Settles O5: a word that decodes is its command's word, and a word that matches a row is a command's word. -/
theorem wordSelectsTheMatchingRow : Obligations.WordSelectsTheMatchingRow := by
  refine ⟨fun w i hd => ?_, fun w i hm => ⟨withFieldsOf w i, ?_, withFieldsOf_rowMatch w i⟩⟩
  · obtain ⟨hwf, rfl⟩ := encode_of_decode hd
    exact ⟨encode_and_rowMask i, hwf, rfl⟩
  · have hd := decode_encode (withFieldsOf_wellFormed w i)
    rwa [encode_withFieldsOf hm] at hd

/-! ## An illegal command -/

theorem captureWord_of_decode_error {w : Word} {e : IllegalWord} (h : decode w = .error e) (o : Operands) :
    captureWord w o = Operands.unwritten := by rw [captureWord, h]

theorem step_completeIllegal {s : State} {f : InFlight} {e : IllegalWord} (hf : s.inFlight = some f)
    (hw : f.wait = 0) (hd : decode f.word = .error e) : step s = .next s.completeIllegal := by
  rw [step_completes hf hw, runWord, hd]

theorem complete_frame (s : State) (c : Completion) : CompletionFrame s (s.complete c) :=
  ⟨rfl, rfl, rfl, rfl, rfl, rfl, rfl, rfl, rfl⟩

/-- Settles O6: the illegal words are those the decoder refuses, and a start and a completion take such a word so. -/
theorem illegalWordIsAcceptedAndEndsIllegal : Obligations.IllegalWordIsAcceptedAndEndsIllegal := by
  refine ⟨decode_error_iff, fun s w rest hi hf hq hm => ?_, fun s f hf hw hi => ?_⟩
  · obtain ⟨e, he⟩ := decode_of_illegal hi
    exact ⟨_, _, step_startNext hf hq hm, State.startNext_inFlight .., rfl, captureWord_of_decode_error he _, rfl⟩
  · obtain ⟨e, he⟩ := decode_of_illegal hi
    exact ⟨_, step_completeIllegal hf hw he, rfl, ResultRegs.invalidate_noneValid _, complete_frame ..⟩

end Sys2Proof.Machine
end

section
/-! PROOFS. The host's pseudo-instructions POLL, RDOUT, LDSTR and LDDIG (R94), and the input string they load (R83). -/

namespace Sys2Proof.Machine

/-! ## The input string -/

/-- Settles O45: the string is the values of the first LEN registers. -/
theorem inputStringIsInZeroUpward : Obligations.InputStringIsInZeroUpward := by
  intro o len hlen
  refine ⟨by simp [inputString, hlen], fun i hi => ?_⟩
  simp [inputString, hi]

/-! ## POLL -/

/-- Settles O26: the access is a read of STATUS, whose bit 4 decides whether the move stays. -/
theorem pollRepeatsWhileBusy : Obligations.PollRepeatsWhileBusy := by
  intro s u rest hu hm
  obtain ⟨-, -, -, -, hcode, hbusy, -⟩ := hu.fields
  have hv : State.statusWord { u with host := rest } = s.statusWord := statusWord_congr hbusy hcode
  have hread : State.readReg { u with host := rest } 0x001 = (s.statusWord, { u with host := rest }) :=
    Prod.ext hv rfl
  refine ⟨s.statusWord, statusValue_statusWord s, ?_⟩
  rw [step_move hu hm, performMove, pollStatus, hv, hread]
  split_ifs
  · rfl
  · rfl

/-! ## RDOUT -/

theorem outReads_eq (v : Word) : outReads v = outReadsOf (min v.toNat 16) := rfl

theorem readReg_outLen (s : State) : s.readReg 0x007 = s.readResult s.results.outLen := rfl

theorem readResult_of_valid {w : Nat} {s : State} {m : Marked w} (hm : m.mark = true) (hf : s.inFlight = none) :
    s.readResult m = (m.val.setWidth 32, s) := by simp [State.readResult, State.busy, hm, hf]

theorem readResult_of_invalid {w : Nat} {s : State} {m : Marked w} (h : m.mark = false ∨ s.busy = true) :
    s.readResult m = s.faultyRead .resultNotValid := by
  rcases h with h | h
  · simp [State.readResult, h]
  · simp [State.readResult, h]

/-- Settles O27: the move reads OUT_LEN, and the reads of OUT it adds are as many as the value read says. -/
theorem rdOutReadsTheByteString : Obligations.RdOutReadsTheByteString := by
  refine ⟨fun s rest hf hq hm hmark hlen => ?_, fun s u rest hu hm hbad => ?_⟩
  · have hread : State.readReg { s with host := rest } 0x007 =
        (s.results.outLen.val.setWidth 32, { s with host := rest }) := by
      rw [readReg_outLen]
      exact readResult_of_valid hmark hf
    rw [step_move (.inl ⟨hf, hq, rfl⟩) hm, performMove, readOutString, hread, outReads_eq,
      BitVec.toNat_setWidth_of_le (by decide), min_eq_left hlen]
    rfl
  · obtain ⟨-, -, hresults, -, -, hbusy, -⟩ := hu.fields
    have hread : State.readReg { u with host := rest } 0x007 =
        State.faultyRead { u with host := rest } .resultNotValid := by
      rw [readReg_outLen]
      exact readResult_of_invalid (by rwa [← hresults, ← hbusy] at hbad)
    refine ⟨min (Config.freeRead u.fresh).toNat 16, min_le_right .., Config.freeRead u.fresh, ?_⟩
    rw [step_move hu hm, performMove, readOutString, hread]
    rfl

/-! ## LDSTR and LDDIG -/

/-- A buffer after the bytes of `x` are written to it, in order, from register `k` on. -/
def fillFrom {n : Nat} (k : Nat) (x : List Byte) (v : Vector (Marked 8) n) : Vector (Marked 8) n :=
  v.mapIdx fun i m => if k ≤ i then (x[i - k]?.map fun b => ⟨b, true⟩).getD m else m

theorem fillFrom_nil {n : Nat} (k : Nat) (v : Vector (Marked 8) n) : fillFrom k [] v = v := by
  apply Vector.ext
  intro i hi
  simp [fillFrom]

/-- Writing the first byte at `k` and the others after it fills the buffer from `k` on. -/
theorem fillFrom_cons {n : Nat} (b : Byte) (x : List Byte) {k : Nat} (hk : k < n) (v : Vector (Marked 8) n) :
    fillFrom (k + 1) x (v.set k ⟨b, true⟩) = fillFrom k (b :: x) v := by
  apply Vector.ext
  intro i hi
  obtain h | rfl | h := Nat.lt_trichotomy i k
  · simp [fillFrom, h.ne', h.not_ge, h.not_gt]
  · simp [fillFrom]
  · have hpred : i - k = i - (k + 1) + 1 := by omega
    simp [fillFrom, h.ne, h.le, h.not_ge, hpred]

theorem fillFrom_zero_of_some {n : Nat} {x : List Byte} {i : Fin n} {b : Byte} (h : x[i.val]? = some b)
    (v : Vector (Marked 8) n) : (fillFrom 0 x v)[i] = ⟨b, true⟩ := by simp [fillFrom, h]

theorem fillFrom_zero_of_none {n : Nat} {x : List Byte} {i : Fin n} (h : x[i.val]? = none)
    (v : Vector (Marked 8) n) : (fillFrom 0 x v)[i] = v[i] := by simp [fillFrom, h]

/-- The writes of the bytes of `x`, in order, to the register numbers from `base + k` on. -/
def loadMoves (base k : Nat) (x : List Byte) : List HostMove :=
  (x.zipIdx k).map fun bi => .wr (BitVec.ofNat 10 (base + bi.2)) (bi.1.setWidth 32)

theorem ldStr_eq (x : List Byte) : ldStr x = loadMoves 0x100 0 x := rfl

theorem ldDig_eq (x : List Byte) : ldDig x = loadMoves 0x020 0 x := rfl

theorem loadMoves_cons (base k : Nat) (b : Byte) (x : List Byte) :
    loadMoves base k (b :: x) = .wr (BitVec.ofNat 10 (base + k)) (b.setWidth 32) :: loadMoves base (k + 1) x := rfl

/-- The registers from number `base` on are a buffer of `n` bytes, and `put` gives the operand registers for each
content of it: a write of one of the numbers writes the register of the buffer. -/
def BufferAt {n : Nat} (base : Nat) (put : Vector (Marked 8) n → Operands) : Prop :=
  ∀ (s : State) (v : Vector (Marked 8) n) (i : Fin n) (b : Byte), s.operands = put v →
    s.writeReg (BitVec.ofNat 10 (base + i.val)) (b.setWidth 32) = { s with operands := put (v.set i ⟨b, true⟩) }

theorem writtenWith_byte (b : Byte) : writtenWith 8 (b.setWidth 32) = ⟨b, true⟩ := by simp [writtenWith]

theorem bufferAt_inp (o : Operands) : BufferAt 0x100 fun v => { o with inp := v } := by
  intro s v i b hs
  rw [writeReg_inp, writtenWith_byte, hs]

theorem bufferAt_dig (o : Operands) : BufferAt 0x020 fun v => { o with dig := v } := by
  intro s v i b hs
  rw [writeReg_dig, writtenWith_byte, hs]

/-- When the next moves of an idle block's host write the bytes of `x` to a buffer, as many steps as `x` has bytes fill
the buffer and change nothing else. -/
theorem run_loadMoves {n base : Nat} {put : Vector (Marked 8) n → Operands} (hput : BufferAt base put)
    {rest : List HostMove} (x : List Byte) (k : Nat) (v : Vector (Marked 8) n) (s : State) (hf : s.inFlight = none)
    (hq : s.queued = []) (hs : s.operands = put v) (hk : k + x.length ≤ n)
    (hm : s.host = loadMoves base k x ++ rest) :
    Host.Core.run Sys2Proof.core x.length s = .next { s with host := rest, operands := put (fillFrom k x v) } := by
  induction x generalizing k v s with
  | nil =>
    obtain rfl : s.host = rest := hm
    rw [fillFrom_nil, ← hs]
    rfl
  | cons b x ih =>
    rw [List.length_cons] at hk
    rw [loadMoves_cons, List.cons_append] at hm
    have hlt : k < n := by omega
    have hwrite := hput { s with host := loadMoves base (k + 1) x ++ rest } v ⟨k, hlt⟩ b hs
    have hstep := (step_write (.inl ⟨hf, hq, rfl⟩) hm).trans (congrArg _ hwrite)
    rw [List.length_cons, run_step _ hstep, ← fillFrom_cons b x hlt]
    exact ih (k + 1) _ _ hf hq rfl (by omega) rfl

/-- Settles O28: both loads are the writes of a buffer, and the state after them holds the filled buffer. -/
theorem ldstrAndLddigFillTheBuffers : Obligations.LdstrAndLddigFillTheBuffers := by
  intro s x rest hf hq
  constructor
  · intro hlen hm
    rw [ldStr_eq] at hm
    have hrun := run_loadMoves (bufferAt_inp s.operands) x 0 s.operands.inp s hf hq rfl (by omega) hm
    exact ⟨_, hrun, rfl, rfl, fun _ _ hb => fillFrom_zero_of_some hb _, fun _ hb => fillFrom_zero_of_none hb _, rfl⟩
  · intro hlen hm
    rw [ldDig_eq] at hm
    have hrun := run_loadMoves (bufferAt_dig s.operands) x 0 s.operands.dig s hf hq rfl (by omega) hm
    rw [hlen] at hrun
    exact ⟨_, hrun, rfl, rfl, fun _ _ hb => fillFrom_zero_of_some hb _, rfl⟩

end Sys2Proof.Machine
end

section
/-! PROOFS. Characters and sanitized text (R11, R110 to R115): uppercasing, trimming and the two sanitizing functions. -/

namespace Sys2Proof.Machine

/-! ## Characters -/

theorem isWs_iff (p : Params) (b : Byte) : isWs p b = true ↔ b ∈ p.ws := List.contains_iff_mem

theorem isAlnum26_iff (b : Byte) : isAlnum26 b = true ↔ IsSymbol36 b := by
  simp [isAlnum26, isDigit, isUpper, IsSymbol36]

theorem upper_of_not_isLower {b : Byte} (h : isLower b = false) : upper b = b := by simp [upper, h]

theorem upper_toNat (b : Byte) :
    (upper b).toNat = if 0x61 ≤ b.toNat ∧ b.toNat ≤ 0x7A then b.toNat - 0x20 else b.toNat := by
  by_cases h : 0x61 ≤ b.toNat ∧ b.toNat ≤ 0x7A
  · have hu : upper b = b - 0x20 := if_pos (decide_eq_true h)
    rw [if_pos h, hu]
    bv_omega
  · rw [if_neg h, upper_of_not_isLower (decide_eq_false h)]

theorem isLower_upper (b : Byte) : isLower (upper b) = false := by
  rw [isLower, decide_eq_false_iff_not, upper_toNat]
  split <;> omega

theorem upper_upper (b : Byte) : upper (upper b) = upper b := upper_of_not_isLower (isLower_upper b)

/-- Uppercasing takes digits and the letters of both cases, and no other byte, to the 36 symbols (R110). -/
theorem isAlnum26_upper_iff (b : Byte) :
    isAlnum26 (upper b) = true ↔
      (0x30 ≤ b.toNat ∧ b.toNat ≤ 0x39) ∨ (0x41 ≤ b.toNat ∧ b.toNat ≤ 0x5A) ∨ (0x61 ≤ b.toNat ∧ b.toNat ≤ 0x7A) := by
  rw [isAlnum26_iff, IsSymbol36, upper_toNat]
  split <;> omega

/-- A byte whose uppercase form is none of the 36 symbols is no lowercase letter, so it is its own uppercase form. -/
theorem upper_of_not_isAlnum26 {b : Byte} (h : isAlnum26 (upper b) = false) : upper b = b := by
  rw [Bool.eq_false_iff, ne_eq, isAlnum26_upper_iff] at h
  refine upper_of_not_isLower (decide_eq_false ?_)
  omega

/-! ## Trimming -/

theorem not_mem_ws_of_head?_dropWhile {p : Params} {x : List Byte} {c : Byte}
    (h : (x.dropWhile (isWs p)).head? = some c) : c ∉ p.ws := by
  have hc := List.head?_dropWhile_not (isWs p) x
  rw [h] at hc
  rw [← isWs_iff]
  exact Bool.eq_false_iff.mp hc

/-- What trimming takes off either end is the longest run of whitespace there (R111). -/
theorem trim_append (p : Params) (x : List Byte) :
    x = x.takeWhile (isWs p) ++ trim p x ++ (x.dropWhile (isWs p)).rtakeWhile (isWs p) := by
  calc x = x.takeWhile (isWs p) ++ x.dropWhile (isWs p) := List.takeWhile_append_dropWhile.symm
    _ = x.takeWhile (isWs p) ++
          ((x.dropWhile (isWs p)).rdropWhile (isWs p) ++ (x.dropWhile (isWs p)).rtakeWhile (isWs p)) := by
        rw [List.rdropWhile_append_rtakeWhile]
    _ = _ := (List.append_assoc ..).symm

theorem mem_ws_of_mem_takeWhile {p : Params} {x : List Byte} {c : Byte} (h : c ∈ x.takeWhile (isWs p)) : c ∈ p.ws :=
  (isWs_iff p c).mp (List.mem_takeWhile_imp h)

theorem mem_ws_of_mem_rtakeWhile {p : Params} {x : List Byte} {c : Byte} (h : c ∈ x.rtakeWhile (isWs p)) : c ∈ p.ws :=
  (isWs_iff p c).mp (List.mem_rtakeWhile_imp h)

theorem not_mem_ws_of_trim_head? {p : Params} {x : List Byte} {c : Byte} (h : (trim p x).head? = some c) :
    c ∉ p.ws := by
  have hpre : trim p x <+: x.dropWhile (isWs p) := List.rdropWhile_prefix ..
  obtain ⟨r, hr⟩ := List.head?_eq_some_iff.mp h
  obtain ⟨b, hb⟩ := hpre
  exact not_mem_ws_of_head?_dropWhile (by rw [← hb, hr]; rfl)

theorem not_mem_ws_of_trim_getLast? {p : Params} {x : List Byte} {c : Byte} (h : (trim p x).getLast? = some c) :
    c ∉ p.ws := by
  rw [trim, List.getLast?_reverse] at h
  exact not_mem_ws_of_head?_dropWhile h

theorem trim_of_blank {p : Params} {x : List Byte} (h : ∀ c ∈ x, c ∈ p.ws) : trim p x = [] := by
  have hnil : x.dropWhile (isWs p) = [] := List.dropWhile_eq_nil_iff.mpr fun c hc => (isWs_iff p c).mpr (h c hc)
  rw [trim, hnil]
  rfl

/-- Settles O46: the cut of `trim_append`, whose outer parts are whitespace and whose middle part has none at its ends. -/
theorem trimTakesOffTheWhitespaceEnds : Obligations.TrimTakesOffTheWhitespaceEnds := fun p x =>
  ⟨⟨_, _, trim_append p x, fun _ => mem_ws_of_mem_takeWhile, fun _ => mem_ws_of_mem_rtakeWhile⟩,
    fun _ => not_mem_ws_of_trim_head?, fun _ => not_mem_ws_of_trim_getLast?, trim_of_blank⟩

/-! ## The sanitizing functions -/

theorem sanitize64_strip {p : Params} (h : p.internalWs = .strip) (x : List Byte) :
    sanitize64 p x = ((trim p x).map upper).filter fun b => b ∉ p.ws := by
  simp [sanitize64, h, isWs]

theorem sanitize64_keep {p : Params} (h : p.internalWs = .keep) (x : List Byte) :
    sanitize64 p x = (trim p x).map upper := by simp [sanitize64, h]

/-- A filter that keeps no whitespace byte's uppercase form keeps the same bytes of the trimmed string. -/
theorem filter_map_upper_trim {p : Params} {keep : Byte → Bool} (h : ∀ c ∈ p.ws, keep (upper c) = false)
    (x : List Byte) : ((trim p x).map upper).filter keep = (x.map upper).filter keep := by
  have gone : ∀ a : List Byte, (∀ c ∈ a, c ∈ p.ws) → (a.map upper).filter keep = [] := by
    intro a ha
    simpa using fun c hc => h c (ha c hc)
  conv_rhs => rw [trim_append p x]
  simp only [List.map_append, List.filter_append]
  rw [gone _ fun _ => mem_ws_of_mem_takeWhile, gone _ fun _ => mem_ws_of_mem_rtakeWhile, List.nil_append,
    List.append_nil]

/-- With no letter or digit in WS_SET a byte and its uppercase form are whitespace alike (R115). -/
theorem upper_mem_ws_iff {p : Params} (h : ∀ b ∈ p.ws, isAlnum26 (upper b) = false) (b : Byte) :
    upper b ∈ p.ws ↔ b ∈ p.ws := by
  constructor
  · intro hb
    have hu := h _ hb
    rw [upper_upper] at hu
    rwa [upper_of_not_isAlnum26 hu] at hb
  · intro hb
    rwa [upper_of_not_isAlnum26 (h b hb)]

/-- Settles O47: both filters drop what trimming takes off. -/
theorem trimChangesNothingInTheSanitizers : Obligations.TrimChangesNothingInTheSanitizers := by
  intro p x h
  refine ⟨filter_map_upper_trim h x, fun hs => ?_, upper_mem_ws_iff h⟩
  rw [sanitize64_strip hs]
  exact filter_map_upper_trim (fun c hc => by simpa using (upper_mem_ws_iff h c).mpr hc) x

theorem isSymbol36_of_mem_sanitize26 {p : Params} {x : List Byte} {b : Byte} (h : b ∈ sanitize26 p x) :
    IsSymbol36 b := (isAlnum26_iff b).mp (List.mem_filter.mp h).2

/-- What either reading of W64_INTERNAL_WS leaves: no lowercase letter, and under STRIP no whitespace (R113). -/
theorem not_lower_nor_stripped_of_mem_sanitize64 {p : Params} {x : List Byte} {b : Byte} (h : b ∈ sanitize64 p x) :
    ¬(0x61 ≤ b.toNat ∧ b.toNat ≤ 0x7A) ∧ (p.internalWs = .strip → b ∉ p.ws) := by
  have noLower : b ∈ (trim p x).map upper → ¬(0x61 ≤ b.toNat ∧ b.toNat ≤ 0x7A) := by
    intro hb
    obtain ⟨c, -, rfl⟩ := List.mem_map.mp hb
    exact of_decide_eq_false (isLower_upper c)
  cases hi : p.internalWs with
  | strip =>
    rw [sanitize64_strip hi, List.mem_filter, decide_eq_true_iff] at h
    exact ⟨noLower h.1, fun _ => h.2⟩
  | keep =>
    rw [sanitize64_keep hi] at h
    exact ⟨noLower h, fun e => by cases e⟩

end Sys2Proof.Machine
end

section
/-! PROOFS. The sanitizer's commands: CHCLS, SAN26 and SAN64 (R114, R116 to R119). -/

namespace Sys2Proof.Machine

/-! ## CHCLS -/

/-- A bit above a value adds its weight. -/
theorem bitAt_or_toNat {k : Nat} (b : Bool) {v : Word} (hk : k < 32) (hv : v.toNat < 2 ^ k) :
    (bitAt k b ||| v).toNat = b.toNat * 2 ^ k + v.toNat := by
  cases b with
  | false => simp [bitAt]
  | true =>
    have hpow : 2 ^ k < 2 ^ 32 := Nat.pow_lt_pow_right (by decide) hk
    have hbit : (bitAt k true).toNat = 2 ^ k := by simpa [bitAt, Nat.shiftLeft_eq] using hpow
    have hor := Nat.two_pow_add_eq_or_of_lt hv 1
    rw [mul_one] at hor
    rw [BitVec.toNat_or, hbit, ← hor, Bool.toNat_true, one_mul]

theorem bitAt_or_lt {k : Nat} (b : Bool) {v : Word} (hk : k < 32) (hv : v.toNat < 2 ^ k) :
    (bitAt k b ||| v).toNat < 2 ^ (k + 1) := by
  have hb : b.toNat * 2 ^ k ≤ 1 * 2 ^ k := Nat.mul_le_mul_right _ (Bool.toNat_le b)
  rw [bitAt_or_toNat b hk hv, pow_succ]
  omega

/-- The word of CHCLS as a number: UP below, then WS, KEEP26 and IN64 with their weights (R116). -/
theorem classWord_toNat (p : Params) (b : Byte) :
    (classWord p b).toNat =
      (isIn64 b).toNat * 2 ^ 10 + (isAlnum26 (upper b)).toNat * 2 ^ 9 + (isWs p b).toNat * 2 ^ 8 +
        (upper b).toNat := by
  have hu : ((upper b).setWidth 32).toNat = (upper b).toNat := BitVec.toNat_setWidth_of_le (by decide)
  have h8 : ((upper b).setWidth 32).toNat < 2 ^ 8 := hu ▸ (upper b).isLt
  have h9 := bitAt_or_lt (isWs p b) (by decide) h8
  have h10 := bitAt_or_lt (isAlnum26 (upper b)) (by decide) h9
  rw [classWord, BitVec.or_assoc, BitVec.or_assoc, bitAt_or_toNat _ (by decide) h10, bitAt_or_toNat _ (by decide) h9,
    bitAt_or_toNat _ (by decide) h8, hu]
  omega

theorem isIn64_iff (b : Byte) :
    isIn64 b = true ↔ b.toNat = 0x20 ∨ (0x30 ≤ b.toNat ∧ b.toNat ≤ 0x39) ∨ (0x41 ≤ b.toNat ∧ b.toNat ≤ 0x5A) := by
  simp [isIn64, isDigit, isUpper, ← BitVec.toNat_inj, or_assoc]

/-- A flag that stands for a condition has the weight `m` exactly under the condition. -/
theorem flag_weight {c : Prop} [Decidable c] {b : Bool} (h : b = true ↔ c) (m : Nat) :
    b.toNat * m = if c then m else 0 := by
  by_cases hc : c
  · simp [hc, h.mpr hc]
  · simp [hc, Bool.eq_false_iff.mpr (mt h.mp hc)]

/-- Settles O33: the command writes the class word to RES0, and each flag of the word is the stated condition. -/
theorem chclsClassifiesTheByte : Obligations.ChclsClassifiesTheByte := by
  refine ⟨by decide, fun s f hf hmark => ?_⟩
  refine ⟨_, _, exec_written hf hmark, rfl, rfl, complete_frame .., ?_⟩
  rw [← flag_weight (isIn64_iff f.ops.charIn.val), ← flag_weight (isAlnum26_upper_iff f.ops.charIn.val),
    ← flag_weight (isWs_iff s.params f.ops.charIn.val), ← upper_toNat, ← classWord_toNat, BitVec.ofNat_toNat,
    BitVec.setWidth_eq]
  exact ResultRegs.publish_onlyRes0 ..

/-! ## SAN26 and SAN64 -/

theorem endsWithout_complete_raise (s : State) (c : CmdOutcome) : EndsWithout s (s.complete (raise c)) c :=
  ⟨rfl, ResultRegs.publish_noneValid rfl, complete_frame ..⟩

theorem inputReady_iff (present : Bool) (len : Nat) (f : InFlight) :
    InputReady present len f ↔ (!present || inputWritten len f.ops) = true := by
  cases present with
  | false => simp [InputReady]
  | true => simp only [InputReady, forall_const, Bool.not_true, Bool.false_or, inputWritten_iff]

/-- The sanitizer outcome as the ordered chain of R114. -/
theorem sanitizeOutcome_eq (g : List Byte → List Byte) (present : Bool) (x : List Byte) :
    sanitizeOutcome g present x =
      if present = false ∨ g x = [] then .absent
      else if (g x).length > 10 then .invalidInput
      else .ok (g x) := by
  cases present with
  | false => rfl
  | true => simp [sanitizeOutcome, plateMax]

/-- A command that reads the input string and publishes the sanitizer outcome follows the rule of R117 and R118. -/
theorem sanitizerRule_of_completionOf {i : Bool → Nat → Instr} {g : Params → List Byte → List Byte}
    (hw : ∀ present len o, operandsWritten (i present len) o = (!present || inputWritten len o))
    (hc : ∀ present len p o, completionOf (i present len) p o =
      ofSanitized finishOut (sanitizeOutcome (g p) present (inputString len o))) :
    SanitizerRule i g := by
  intro s f present len hf hready
  refine ⟨_, exec_written hf ((hw ..).trans ((inputReady_iff ..).mp hready)), ?_⟩
  rw [hc, sanitizeOutcome_eq]
  split_ifs with habsent hlong
  · exact endsWithout_complete_raise ..
  · exact endsWithout_complete_raise ..
  · exact ⟨rfl, rfl, rfl, ResultRegs.publish_holdsText rfl (by omega), complete_frame ..⟩

theorem sanitizerRule_san26 : SanitizerRule .san26 sanitize26 :=
  sanitizerRule_of_completionOf (fun _ _ _ => rfl) fun _ _ _ _ => rfl

theorem sanitizerRule_san64 : SanitizerRule .san64 sanitize64 :=
  sanitizerRule_of_completionOf (fun _ _ _ => rfl) fun _ _ _ _ => rfl

/-- Settles O35: the mask leaves the row's OP, and the rule is that of the Wiegand26 sanitizing function. -/
theorem san26SanitizesThePlate : Obligations.San26SanitizesThePlate :=
  ⟨fun _ _ => commandWord_and_maskS .., sanitizerRule_san26⟩

/-- Settles O36: the mask leaves the row's OP, and the rule is that of the Wiegand64 sanitizing function. -/
theorem san64SanitizesThePlate : Obligations.San64SanitizesThePlate := by
  refine ⟨fun _ _ => commandWord_and_maskS .., ?_⟩
  convert sanitizerRule_san64 using 3 with p x
  cases hi : p.internalWs with
  | strip => rw [sanitize64_strip hi]; rfl
  | keep => rw [sanitize64_keep hi]; rfl

/-! ## What is left in OUT -/

/-- After OK the byte string is the sanitized text, of one to ten bytes (R114). -/
theorem SanitizerRule.holdsText_of_ok {i : Bool → Nat → Instr} {g : Params → List Byte → List Byte}
    (h : SanitizerRule i g) {s t : State} {f : InFlight} {present : Bool} {len : Nat} (hf : s.inFlight = some f)
    (hready : InputReady present len f) (he : exec (i present len) s = .next t) (hok : t.code = some .ok) :
    t.results.HoldsText (g s.params (inputString len f.ops)) ∧
      1 ≤ (g s.params (inputString len f.ops)).length ∧ (g s.params (inputString len f.ops)).length ≤ 10 := by
  obtain ⟨t', he', hrule⟩ := h s f present len hf hready
  cases he.symm.trans he'
  split_ifs at hrule with habsent hlong
  · cases hok.symm.trans hrule.1
  · cases hok.symm.trans hrule.1
  · obtain ⟨-, -, -, htext, -⟩ := hrule
    exact ⟨htext, List.length_pos_iff.mpr fun e => habsent (.inr e), by omega⟩

theorem ResultRegs.HoldsText.out_mem {r : ResultRegs} {x : List Byte} (h : r.HoldsText x) {i : Fin 16}
    (hi : i.val < r.outLen.val.toNat) : r.out[i].val ∈ x := by
  obtain ⟨-, hlen, hout⟩ := h
  rw [hlen] at hi
  rw [(hout i).1 hi]
  exact List.getElem_mem hi

/-- After OK every byte of OUT has what every byte of the sanitized text has, and OUT_LEN is 1 to 10 (R114, R119). -/
theorem SanitizerRule.out_of_ok {i : Bool → Nat → Instr} {g : Params → List Byte → List Byte} (h : SanitizerRule i g)
    {s t : State} {f : InFlight} {present : Bool} {len : Nat} {P : Byte → Prop} (hf : s.inFlight = some f)
    (hready : InputReady present len f) (hP : ∀ b ∈ g s.params (inputString len f.ops), P b)
    (he : exec (i present len) s = .next t) (hok : t.code = some .ok) :
    1 ≤ t.results.outLen.val.toNat ∧ t.results.outLen.val.toNat ≤ 10 ∧
      ∀ j : Fin 16, j.val < t.results.outLen.val.toNat → P t.results.out[j].val := by
  obtain ⟨htext, hpos, hle⟩ := h.holdsText_of_ok hf hready he hok
  have hlen := htext.2.1
  exact ⟨hlen ▸ hpos, hlen ▸ hle, fun j hj => hP _ (htext.out_mem hj)⟩

/-- Settles O48: the bytes of OUT are those of the sanitized text. -/
theorem sanitizedPlateIsOfTheAlphabet : Obligations.SanitizedPlateIsOfTheAlphabet := by
  intro s f present len hf hready
  exact ⟨fun _ => sanitizerRule_san26.out_of_ok hf hready fun _ => isSymbol36_of_mem_sanitize26,
    fun _ => sanitizerRule_san64.out_of_ok hf hready fun _ => not_lower_nor_stripped_of_mem_sanitize64⟩

end Sys2Proof.Machine
end

section
/-! PROOFS. The Wiegand64 code of a plate: its value, its lanes (R200, R202 to R204), and the plate back from it (R210). -/

namespace Sys2Proof.Machine

/-! ## The character codes -/

theorem eq_space_iff (b : Byte) : b = 0x20 ↔ b.toNat = 0x20 := BitVec.toNat_inj.symm

theorem code6_toNat (b : Byte) :
    (code6 b).toNat =
      if b.toNat = 0x20 then 0
      else if 0x30 ≤ b.toNat ∧ b.toNat ≤ 0x39 then b.toNat - 0x30 + 16
      else if 0x41 ≤ b.toNat ∧ b.toNat ≤ 0x5A then b.toNat - 0x41 + 26
      else 63 := by
  simp only [code6, isDigit, isUpper, decide_eq_true_iff, eq_space_iff]
  split_ifs with hspace hdigit hupper
  · rfl
  · exact Nat.mod_eq_of_lt (by omega)
  · exact Nat.mod_eq_of_lt (by omega)
  · rfl

theorem code6_ne_escape_iff (b : Byte) : code6 b ≠ 63 ↔ b = 0x20 ∨ IsSymbol36 b := by
  have hescape : code6 b = 63 ↔ (code6 b).toNat = 63 := BitVec.toNat_inj.symm
  rw [ne_eq, hescape, code6_toNat, eq_space_iff, IsSymbol36]
  split_ifs with hspace
  · simp [hspace]
  all_goals omega

/-- Only the escape code 63 stands for more than one byte (R200). -/
theorem code6_injective_of_ne_escape {b c : Byte} (hb : code6 b ≠ 63) (h : code6 b = code6 c) : b = c := by
  have hc : code6 c ≠ 63 := h ▸ hb
  rw [code6_ne_escape_iff, eq_space_iff, IsSymbol36] at hb hc
  rw [← BitVec.toNat_inj, code6_toNat, code6_toNat] at h
  apply BitVec.eq_of_toNat_eq
  split_ifs at h <;> omega

/-! ## The lanes -/

theorem lane_toNat (plate : List Byte) (i : Nat) :
    (lane plate i).toNat = (code6 (plate.getD i 0x20)).toNat * 2 ^ (54 - 6 * i) := by
  have hcode := (code6 (plate.getD i 0x20)).isLt
  have hweight : 2 ^ (54 - 6 * i) ≤ 2 ^ 54 := Nat.pow_le_pow_right (by decide) (Nat.sub_le ..)
  have hlt : (code6 (plate.getD i 0x20)).toNat * 2 ^ (54 - 6 * i) < 2 ^ 64 := by
    calc _ ≤ 2 ^ 6 * 2 ^ 54 := Nat.mul_le_mul hcode.le hweight
      _ < 2 ^ 64 := by decide
  rw [lane, BitVec.toNat_shiftLeft, BitVec.toNat_setWidth_of_le (by decide), Nat.shiftLeft_eq, Nat.mod_eq_of_lt hlt]

/-- The number whose `k` base-64 digits are the first values of `c`, the first most significant. -/
def base64 (c : Nat → Nat) (k : Nat) : Nat := ∑ i ∈ Finset.range k, c i * 64 ^ (k - 1 - i)

theorem base64_succ (c : Nat → Nat) (k : Nat) : base64 c (k + 1) = 64 * base64 c k + c k := by
  have front : ∀ i ∈ Finset.range k, c i * 64 ^ (k + 1 - 1 - i) = 64 * (c i * 64 ^ (k - 1 - i)) := by
    intro i hi
    have hk : k + 1 - 1 - i = k - 1 - i + 1 := by have := Finset.mem_range.mp hi; omega
    rw [hk, pow_succ']
    ring
  rw [base64, Finset.sum_range_succ, Finset.sum_congr rfl front, ← Finset.mul_sum, ← base64]
  simp

theorem base64_lt {c : Nat → Nat} (hc : ∀ i, c i < 64) (k : Nat) : base64 c k < 64 ^ k := by
  induction k with
  | zero => simp [base64]
  | succ k ih =>
    have := hc k
    rw [base64_succ, pow_succ']
    omega

theorem base64_digit {c : Nat → Nat} (hc : ∀ i, c i < 64) {k i : Nat} (hi : i < k) :
    base64 c k / 64 ^ (k - 1 - i) % 64 = c i := by
  induction k with
  | zero => omega
  | succ k ih =>
    rw [base64_succ]
    obtain rfl | hlt := Nat.eq_or_lt_of_le (Nat.le_of_lt_succ hi)
    · simp [Nat.mod_eq_of_lt (hc i)]
    · have hk : k + 1 - 1 - i = k - 1 - i + 1 := by omega
      have hq : (64 * base64 c k + c k) / 64 = base64 c k := by have := hc k; omega
      rw [hk, pow_succ', ← Nat.div_div_eq_div_mul, hq, ih hlt]

theorem foldl_add_toNat {w : Nat} (l : List (BitVec w)) (v : BitVec w) :
    (l.foldl (· + ·) v).toNat = (v.toNat + (l.map BitVec.toNat).sum) % 2 ^ w := by
  induction l generalizing v with
  | nil => simp [Nat.mod_eq_of_lt v.isLt]
  | cons b l ih => simp [ih, Nat.add_assoc]

/-- The character codes of the padded plate, as numbers. -/
def laneCode (t : List Byte) (i : Nat) : Nat := (code6 ((pad10 t).getD i 0x20)).toNat

theorem laneCode_lt (t : List Byte) (i : Nat) : laneCode t i < 64 := BitVec.isLt _

/-- The sum of the lanes is the number whose base-64 digits are the ten character codes (R203). -/
theorem lanes_toNat (t : List Byte) : (lanes t).toNat = base64 (laneCode t) 10 := by
  have weight : ∀ i ∈ Finset.range 10, (lane (pad10 t) i).toNat = laneCode t i * 64 ^ (10 - 1 - i) := by
    intro i hi
    have he : 54 - 6 * i = 6 * (10 - 1 - i) := by omega
    rw [lane_toNat, he, pow_mul]
    rfl
  have hsum : (((List.range 10).map (lane (pad10 t))).map BitVec.toNat).sum = base64 (laneCode t) 10 := by
    rw [base64, ← Finset.sum_congr rfl weight, List.map_map]
    rfl
  have hlt : base64 (laneCode t) 10 < 64 ^ 10 := base64_lt (laneCode_lt t) 10
  rw [lanes, foldl_add_toNat, hsum]
  exact (congrArg (· % 2 ^ 64) (Nat.zero_add _)).trans (Nat.mod_eq_of_lt (hlt.trans (by decide)))

/-- Lane `i` of the code, at bits (59 - 6i) down to (54 - 6i), is the character code of byte `i` (R203, R204). -/
theorem w64_lane (t : List Byte) {i : Nat} (hi : i < 10) :
    (w64 t).extractLsb' (54 - 6 * i) 6 = code6 ((pad10 t).getD i 0x20) := by
  have header : ∀ j < 10, (0x6000000000000000 : DWord).extractLsb' (54 - 6 * j) 6 = 0#6 := by decide
  have he : 54 - 6 * i = 6 * (10 - 1 - i) := by omega
  apply BitVec.eq_of_toNat_eq
  rw [w64, BitVec.extractLsb'_or, header i hi, BitVec.zero_or, BitVec.extractLsb'_toNat, Nat.shiftRight_eq_div_pow,
    lanes_toNat, he, pow_mul]
  exact base64_digit (laneCode_lt t) hi

/-! ## The plate from its code -/

theorem pad10_length {t : List Byte} (h : t.length ≤ 10) : (pad10 t).length = 10 := by
  simp [pad10, h]

/-- Padding is undone by dropping the spaces, which no symbol is. -/
theorem filter_pad10 {t : List Byte} (h : ∀ b ∈ t, IsSymbol36 b) : (pad10 t).filter (· ≠ 0x20) = t := by
  have hspace : ∀ b ∈ t, b ≠ 0x20 := by
    rintro _ hb rfl
    exact absurd (h _ hb) (by unfold IsSymbol36; decide)
  simpa [pad10, List.filter_append] using hspace

/-- No byte of a padded plate of symbols is an escape (R200, R202). -/
theorem code6_pad10_ne_escape {t : List Byte} (h : ∀ b ∈ t, IsSymbol36 b) {b : Byte} (hb : b ∈ pad10 t) :
    code6 b ≠ 63 := by
  rw [code6_ne_escape_iff]
  rcases List.mem_append.mp hb with hpad | ht
  · exact .inl (List.eq_of_mem_replicate hpad)
  · exact .inr (h b ht)

theorem pad10_eq_of_w64_eq {x y : List Byte} (hx : ∀ b ∈ x, IsSymbol36 b) (hlx : x.length ≤ 10) (hly : y.length ≤ 10)
    (h : w64 x = w64 y) : pad10 x = pad10 y := by
  apply List.ext_getElem ((pad10_length hlx).trans (pad10_length hly).symm)
  intro i hix hiy
  have hi : i < 10 := pad10_length hlx ▸ hix
  have hlane : code6 ((pad10 x).getD i 0x20) = code6 ((pad10 y).getD i 0x20) := by
    rw [← w64_lane x hi, h, w64_lane y hi]
  rw [List.getD_eq_getElem _ _ hix, List.getD_eq_getElem _ _ hiy] at hlane
  exact code6_injective_of_ne_escape (code6_pad10_ne_escape hx (List.getElem_mem hix)) hlane

/-- Over the 36 symbols the code determines the plate (R210). -/
theorem eq_of_w64_eq {x y : List Byte} (hx : ∀ b ∈ x, IsSymbol36 b) (hy : ∀ b ∈ y, IsSymbol36 b)
    (hlx : x.length ≤ 10) (hly : y.length ≤ 10) (h : w64 x = w64 y) : x = y := by
  rw [← filter_pad10 hx, ← filter_pad10 hy, pad10_eq_of_w64_eq hx hlx hly h]

/-- Settles O56: the lanes give back the padded plate; '-' and '+' in one place are both escapes. -/
theorem wiegand64IsInjectiveOnSymbols : Obligations.Wiegand64IsInjectiveOnSymbols := by
  refine ⟨fun p x y _ hx hy _ hlx _ hly => eq_of_w64_eq hx hy hlx hly, ?_⟩
  decide

end Sys2Proof.Machine
end

section
/-! PROOFS. The Wiegand26 code as bits: the layout of R144, the two parity fields (R142, R143, R145), the parity
generator and its laws (R150). -/

namespace Sys2Proof.Machine

/-! ## The number of 1 bits -/

theorem popcount_cons {w : Nat} (b : Bool) (v : BitVec w) : popcount (v.cons b) = popcount v + b.toNat := by
  have low : (List.range w).countP (v.cons b).getLsbD = popcount v :=
    List.countP_congr fun i hi => by simp [BitVec.getLsbD_cons, (List.mem_range.mp hi).ne]
  rw [popcount, List.range_succ, List.countP_append, low]
  simp only [List.countP_singleton, BitVec.getLsbD_cons, if_true]
  cases b <;> rfl

theorem popcount_concat {w : Nat} (v : BitVec w) (b : Bool) : popcount (v.concat b) = popcount v + b.toNat := by
  have high : (List.range w).countP ((v.concat b).getLsbD ∘ Nat.succ) = popcount v :=
    List.countP_congr fun i _ => by simp
  rw [popcount, List.range_succ_eq_map, List.countP_cons, List.countP_map, high]
  cases b <;> simp

theorem parity_cons {w : Nat} (b : Bool) (v : BitVec w) : parity (v.cons b) = (parity v + b.toNat) % 2 := by
  rw [parity, popcount_cons, parity, Nat.mod_add_mod]

theorem parity_concat {w : Nat} (v : BitVec w) (b : Bool) : parity (v.concat b) = (parity v + b.toNat) % 2 := by
  rw [parity, popcount_concat, parity, Nat.mod_add_mod]

theorem parity_cons_false {w : Nat} (v : BitVec w) : parity (v.cons false) = parity v :=
  (parity_cons false v).trans (Nat.mod_mod ..)

theorem parity_concat_false {w : Nat} (v : BitVec w) : parity (v.concat false) = parity v :=
  (parity_concat v false).trans (Nat.mod_mod ..)

theorem parity_lt {w : Nat} (v : BitVec w) : parity v < 2 := Nat.mod_lt _ (by decide)

/-! ## The layout of a code -/

/-- The 26-bit value with `e` at bit 25, the payload `p` in bits 24:1 and `o` at bit 0 (R144). -/
def layout26 (e : Bool) (p : Payload) (o : Bool) : Code26 := (p.concat o).cons e

theorem layout26_toNat (e : Bool) (p : Payload) (o : Bool) :
    (layout26 e p o).toNat = e.toNat * 2 ^ 25 + p.toNat * 2 + o.toNat := by
  rw [layout26, BitVec.toNat_cons', BitVec.toNat_concat, Nat.shiftLeft_eq, Nat.add_assoc]

theorem payloadOf_layout26 (e : Bool) (p : Payload) (o : Bool) : payloadOf (layout26 e p o) = p := by
  apply BitVec.eq_of_toNat_eq
  have := p.isLt
  have := Bool.toNat_lt o
  rw [payloadOf, BitVec.extractLsb'_toNat, layout26_toNat, Nat.shiftRight_eq_div_pow]
  omega

theorem evenField_layout26 (e : Bool) (p : Payload) (o : Bool) :
    evenField (layout26 e p o) = (p.extractLsb' 12 12).cons e := by
  apply BitVec.eq_of_toNat_eq
  have := p.isLt
  have := Bool.toNat_lt e
  have := Bool.toNat_lt o
  simp only [evenField, BitVec.toNat_cons', BitVec.extractLsb'_toNat, layout26_toNat, Nat.shiftRight_eq_div_pow,
    Nat.shiftLeft_eq]
  omega

theorem oddField_layout26 (e : Bool) (p : Payload) (o : Bool) :
    oddField (layout26 e p o) = (p.extractLsb' 0 12).concat o := by
  apply BitVec.eq_of_toNat_eq
  have := Bool.toNat_lt o
  simp only [oddField, BitVec.toNat_concat, BitVec.extractLsb'_toNat, layout26_toNat, Nat.shiftRight_eq_div_pow]
  omega

/-- Every 26-bit value has the layout. -/
theorem layout26_payloadOf (c : Code26) : layout26 (c.getLsbD 25) (payloadOf c) (c.getLsbD 0) = c := by
  apply BitVec.eq_of_getLsbD_eq
  intro i hi
  simp only [layout26, payloadOf, BitVec.getLsbD_cons, BitVec.getLsbD_concat, BitVec.getLsbD_extractLsb']
  split_ifs with h25 h0
  · rw [h25]
  · rw [h0]
  · rw [decide_eq_true (by omega), Bool.true_and, Nat.add_sub_cancel' (by omega)]

theorem layout26_or (e e' : Bool) (p p' : Payload) (o o' : Bool) :
    layout26 e p o ||| layout26 e' p' o' = layout26 (e || e') (p ||| p') (o || o') := by
  rw [layout26, layout26, BitVec.cons_or_cons, BitVec.concat_or_concat, layout26]

/-! ## The parity bits of a payload -/

/-- The even-parity bit of a payload, the parity of its upper 12 bits (R142). -/
def evenBit (p : Payload) : Bool := parity (p.extractLsb' 12 12) == 1

/-- The odd-parity bit of a payload, set when the parity of its lower 12 bits is 0 (R143). -/
def oddBit (p : Payload) : Bool := parity (p.extractLsb' 0 12) == 0

theorem evenBit_toNat (p : Payload) : (evenBit p).toNat = parity (p.extractLsb' 12 12) := by
  have := parity_lt (p.extractLsb' 12 12)
  rw [evenBit]
  interval_cases parity (p.extractLsb' 12 12) <;> rfl

theorem oddBit_toNat (p : Payload) : (oddBit p).toNat = 1 - parity (p.extractLsb' 0 12) := by
  have := parity_lt (p.extractLsb' 0 12)
  rw [oddBit]
  interval_cases parity (p.extractLsb' 0 12) <;> rfl

/-- EVEN_OK holds of a code exactly when its bit 25 is the even-parity bit of its payload (R145). -/
theorem evenOk_layout26 (e : Bool) (p : Payload) (o : Bool) : evenOk (layout26 e p o) = true ↔ e = evenBit p := by
  rw [evenOk, evenField_layout26, parity_cons, beq_iff_eq, Bool.eq_iff_iff, ← Bool.toNat_eq_one, evenBit, beq_iff_eq]
  have := parity_lt (p.extractLsb' 12 12)
  have := Bool.toNat_lt e
  omega

/-- ODD_OK holds of a code exactly when its bit 0 is the odd-parity bit of its payload (R145). -/
theorem oddOk_layout26 (e : Bool) (p : Payload) (o : Bool) : oddOk (layout26 e p o) = true ↔ o = oddBit p := by
  rw [oddOk, oddField_layout26, parity_concat, beq_iff_eq, Bool.eq_iff_iff, ← Bool.toNat_eq_one, oddBit, beq_iff_eq]
  have := parity_lt (p.extractLsb' 0 12)
  have := Bool.toNat_lt o
  omega

/-! ## The parity generator -/

theorem shiftPayload_eq (p : Payload) : shiftPayload p = (layout26 false p false).setWidth 32 := by
  apply BitVec.eq_of_toNat_eq
  have := p.isLt
  rw [shiftPayload, BitVec.toNat_shiftLeft, BitVec.toNat_setWidth_of_le (by decide),
    BitVec.toNat_setWidth_of_le (by decide), layout26_toNat, Nat.shiftLeft_eq, Bool.toNat_false]
  omega

/-- Step 4 puts the even-parity bit in its place (R142). -/
theorem setEvenParity_layout26 (p : Payload) (o : Bool) :
    setEvenParity ((layout26 false p o).setWidth 32) = (layout26 (evenBit p) p o).setWidth 32 := by
  have field : ((layout26 false p o).setWidth 32).extractLsb' 13 13 = (p.extractLsb' 12 12).cons false :=
    (BitVec.extractLsb'_setWidth_of_le (by decide)).trans (evenField_layout26 ..)
  have mask : (0x02000000 : Word) = (layout26 true 0#24 false).setWidth 32 := by decide
  rw [setEvenParity, field, parity_cons_false, mask, ← BitVec.setWidth_or, layout26_or, BitVec.or_zero, evenBit]
  split_ifs with h
  · rw [beq_iff_eq.mpr h, Bool.false_or, Bool.or_false]
  · rw [beq_eq_false_iff_ne.mpr h]

/-- Step 5 puts the odd-parity bit in its place (R143). -/
theorem setOddParity_layout26 (e : Bool) (p : Payload) :
    setOddParity ((layout26 e p false).setWidth 32) = (layout26 e p (oddBit p)).setWidth 32 := by
  have field : ((layout26 e p false).setWidth 32).extractLsb' 0 13 = (p.extractLsb' 0 12).concat false :=
    (BitVec.extractLsb'_setWidth_of_le (by decide)).trans (oddField_layout26 ..)
  have mask : (0x00000001 : Word) = (layout26 false 0#24 true).setWidth 32 := by decide
  rw [setOddParity, field, parity_concat_false, mask, ← BitVec.setWidth_or, layout26_or, BitVec.or_zero, oddBit]
  split_ifs with h
  · rw [beq_iff_eq.mpr h, Bool.or_false, Bool.false_or]
  · rw [beq_eq_false_iff_ne.mpr h]

/-- The word that steps 3 to 5 compute: both parity bits about the payload, and zeros above (R144). -/
theorem setParity_shiftPayload (p : Payload) :
    setOddParity (setEvenParity (shiftPayload p)) = (layout26 (evenBit p) p (oddBit p)).setWidth 32 := by
  rw [shiftPayload_eq, setEvenParity_layout26, setOddParity_layout26]

theorem pargen_eq_layout26 (p : Payload) : pargen p = layout26 (evenBit p) p (oddBit p) := by
  rw [pargen, setParity_shiftPayload, BitVec.setWidth_setWidth_of_le _ (by decide), BitVec.setWidth_eq]

theorem payloadOf_pargen (p : Payload) : payloadOf (pargen p) = p := by
  rw [pargen_eq_layout26, payloadOf_layout26]

/-- A code passes both checks exactly when it is the code of its payload (R150). -/
theorem parity_ok_iff (c : Code26) : (evenOk c = true ∧ oddOk c = true) ↔ c = pargen (payloadOf c) := by
  constructor
  · rintro ⟨he, ho⟩
    rw [← layout26_payloadOf c, evenOk_layout26] at he
    rw [← layout26_payloadOf c, oddOk_layout26] at ho
    rw [pargen_eq_layout26, ← he, ← ho, layout26_payloadOf]
  · intro h
    rw [h, pargen_eq_layout26, evenOk_layout26, oddOk_layout26]
    exact ⟨rfl, rfl⟩

/-- The code reads the digest bytes alone (R140, R147). -/
theorem encode26_congr {o o' : Operands} (h : ∀ i : Fin 20, o.dig[i].val = o'.dig[i].val) :
    encode26 o = encode26 o' := by
  have he : extract24 o = extract24 o' := by simp only [extract24, digestByte, h]
  rw [encode26, he, encode26]

/-- Settles O50: the generator's layout gives the payload back, and the checker accepts that layout alone. -/
theorem parityLaws : Obligations.ParityLaws := by
  refine ⟨fun p => ?_, fun p q h => ?_, parity_ok_iff, fun o o' h => encode26_congr h⟩
  · have hword : setOddParity (setEvenParity (shiftPayload p)) = (pargen p).setWidth 32 := by
      rw [setParity_shiftPayload, pargen_eq_layout26]
    have hlt : ((pargen p).setWidth 32).toNat < 2 ^ 26 := by
      rw [BitVec.toNat_setWidth_of_le (by decide)]
      exact (pargen p).isLt
    have hok := (parity_ok_iff (pargen p)).mpr (by rw [payloadOf_pargen])
    exact ⟨hword, hword ▸ hlt, payloadOf_pargen p, hok⟩
  · rw [← payloadOf_pargen p, h, payloadOf_pargen]

end Sys2Proof.Machine
end

section
/-! PROOFS. The commands of the Wiegand26 encoder and the parity unit: W26ENC, PARGEN, PARCHK (R140, R147 to R149). -/

namespace Sys2Proof.Machine

/-! ## The code and the payload as numbers -/

/-- The closed form of R144 gives the number of the code. -/
theorem pargen_toNat (p : Payload) : (pargen p).toNat = codeNumber p.toNat := by
  have hi : p.extractLsb' 12 12 = BitVec.ofNat 12 (p.toNat / 2 ^ 12) :=
    congrArg _ (Nat.shiftRight_eq_div_pow ..)
  have lo : p.extractLsb' 0 12 = BitVec.ofNat 12 p.toNat := rfl
  rw [pargen_eq_layout26, layout26_toNat, evenBit_toNat, oddBit_toNat, hi, lo, codeNumber]

/-- The digest's last three bytes stand in the payload with their weights (R140). -/
theorem extract24_toNat (f : InFlight) : (extract24 f.ops).toNat = payloadNumber f := by
  have h17 := (digestByte f.ops 17).isLt
  have h18 := (digestByte f.ops 18).isLt
  have h19 := (digestByte f.ops 19).isLt
  have low : (digestByte f.ops 18).toNat <<< 8 + (digestByte f.ops 19).toNat < 2 ^ 16 := by
    rw [Nat.shiftLeft_eq]
    omega
  have sum : (extract24 f.ops).toNat =
      (digestByte f.ops 17).toNat <<< 16 + ((digestByte f.ops 18).toNat <<< 8 + (digestByte f.ops 19).toNat) := by
    rw [Nat.shiftLeft_add_eq_or_of_lt low, Nat.shiftLeft_add_eq_or_of_lt h19, ← Nat.or_assoc]
    simp only [extract24, BitVec.toNat_or, BitVec.toNat_shiftLeft, BitVec.toNat_setWidth, Nat.shiftLeft_eq]
    congr 2 <;> omega
  rw [sum, Nat.shiftLeft_eq, Nat.shiftLeft_eq, ← Nat.add_assoc]
  rfl

theorem hex7_pargen (p : Payload) : hex7 (pargen p) = hexText 7 (codeNumber p.toNat) := by
  rw [hex7, pargen_toNat]

theorem hex7_length_le (c : Code26) : (hex7 c).length ≤ 16 := (hexText_length ..).trans_le (by decide)

theorem pargen_setWidth (p : Payload) : (pargen p).setWidth 32 = BitVec.ofNat 32 (codeNumber p.toNat) := by
  rw [← pargen_toNat, BitVec.ofNat_toNat]

/-! ## W26ENC, PARGEN and PARCHK -/

theorem exec_w26enc {s : State} {f : InFlight} (hf : s.inFlight = some f) (hready : DigestReady f) :
    exec (.w26enc true) s = .next (s.complete (encode26 f.ops)) :=
  exec_written hf ((digestWritten_iff f).mpr hready)

/-- Settles O37: with the digest the code, the payload and the text are published; without, the outcome alone. -/
theorem w26encEncodesTheDigest : Obligations.W26encEncodesTheDigest := by
  refine ⟨by decide, by decide, fun s f hf => ?_, fun s f hf hready => ?_⟩
  · exact ⟨_, exec_written hf rfl, endsWithout_complete_raise ..⟩
  · refine ⟨_, _, _, exec_w26enc hf hready, rfl, rfl, rfl, complete_frame .., ?_⟩
    rw [← extract24_toNat, ← pargen_setWidth, ← hex7_pargen, BitVec.ofNat_toNat]
    exact ⟨rfl, rfl, ResultRegs.publish_holdsText rfl (hex7_length_le _)⟩

/-- Settles O38: the code and its text are published, by the closed form of the generator. -/
theorem pargenAddsTheParityBits : Obligations.PargenAddsTheParityBits := by
  refine ⟨by decide, fun s f hf hmark => ?_⟩
  refine ⟨_, _, exec_written hf hmark, rfl, rfl, complete_frame .., ?_⟩
  rw [← pargen_setWidth, ← hex7_pargen]
  exact ⟨rfl, rfl, ResultRegs.publish_holdsText rfl (hex7_length_le _)⟩

/-- The word of PARCHK: ODD_OK has the weight 2 and EVEN_OK the weight 1 (R145, R149). -/
theorem parityWord_eq (c : Code26) :
    parityWord c = BitVec.ofNat 32
      (2 * (if popcount (c.extractLsb' 0 13) % 2 = 1 then 1 else 0) +
        (if popcount (c.extractLsb' 13 13) % 2 = 0 then 1 else 0)) := by
  have flags : ∀ odd even : Bool, bitAt 1 odd ||| bitAt 0 even = BitVec.ofNat 32 (2 * odd.toNat + even.toNat) := by
    decide
  have hodd : (oddOk c).toNat * 1 = if popcount (c.extractLsb' 0 13) % 2 = 1 then 1 else 0 :=
    flag_weight beq_iff_eq 1
  have heven : (evenOk c).toNat * 1 = if popcount (c.extractLsb' 13 13) % 2 = 0 then 1 else 0 :=
    flag_weight beq_iff_eq 1
  rw [parityWord, flags, ← hodd, ← heven, mul_one, mul_one]

/-- Settles O39: the word published is that of both checks. -/
theorem parchkChecksBothFields : Obligations.ParchkChecksBothFields := by
  refine ⟨by decide, fun s f hf hmark => ?_⟩
  refine ⟨_, _, exec_written hf hmark, rfl, rfl, complete_frame .., ?_⟩
  rw [← parityWord_eq]
  exact ResultRegs.publish_onlyRes0 ..

end Sys2Proof.Machine
end

section
/-! PROOFS. The text of a code through the decoder (R170 to R174), and the digest's bytes back from it (R180). -/

namespace Sys2Proof.Machine

/-! ## The value of a text -/

/-- Digits read from the left give the number they are, over what was read before (R170). -/
theorem hexDigits_of_values {p : Params} {x : List Byte} {ds : List Nat} (acc : Nat)
    (h : x.map (hexVal p) = ds.map some) :
    hexDigits p acc x = some (Nat.ofDigits 16 ds.reverse + 16 ^ ds.length * acc) := by
  induction x generalizing acc ds with
  | nil =>
    obtain rfl : ds = [] := by simpa using h.symm
    simp [hexDigits]
  | cons b x ih =>
    cases ds with
    | nil => simp at h
    | cons d ds =>
      obtain ⟨hb, hx⟩ := List.cons.inj h
      have hstep : hexDigits p acc (b :: x) = hexDigits p (acc * 16 + d) x := by rw [hexDigits, hb]
      rw [hstep, ih _ hx, List.reverse_cons, Nat.ofDigits_append, Nat.ofDigits_singleton, List.length_reverse,
        List.length_cons]
      congr 1
      ring

theorem hexParse_of_hexNumeral {p : Params} {x : List Byte} {v : Nat} (h : HexNumeral p x v) :
    hexParse p true x = some v := by
  obtain ⟨⟨b, hb, hws⟩, ds, hds, rfl⟩ := h
  have hblank : x.all (isWs p) = false :=
    List.all_eq_false.mpr ⟨b, hb, fun e => hws ((isWs_iff p b).mp e)⟩
  simp [hexParse, hblank, hexDigits_of_values 0 hds]

/-- With no digit in WS_SET the rendering of a number is a numeral of it (R12, R170). -/
theorem hexNumeral_hexText {p : Params} (hp : ∀ b ∈ p.ws, hexVal p b = none) {k v : Nat} (hk : 0 < k)
    (hv : v < 16 ^ k) : HexNumeral p (hexText k v) v := by
  have hhead := List.mem_of_getElem? (hexText_getElem? (v := v) hk)
  refine ⟨⟨_, hhead, fun hws => ?_⟩, _, hexText_map_hexVal p k v, ofDigits_hexValues hv⟩
  have := (hexVal_hexDigit p (Nat.mod_lt _ (by decide))).symm.trans (hp _ hws)
  cases this

/-- The decoder reads the text of a code as that code (R146, R172). -/
theorem code26_hex7 {p : Params} (hp : ∀ b ∈ p.ws, hexVal p b = none) (c : Code26) :
    code26 p true (hex7 c) = some c := by
  have hlt : c.toNat < 16 ^ 7 := c.isLt.trans (by decide)
  rw [code26, hex7, hexParse_of_hexNumeral (hexNumeral_hexText hp (by decide) hlt)]
  simp [c.isLt.not_ge]

/-! ## The fields of a code -/

theorem facilityCode_eq (c : Code26) : (facilityCode c).toNat = (payloadOf c).toNat / 2 ^ 16 := by
  have := c.isLt
  simp only [facilityCode, payloadOf, BitVec.extractLsb'_toNat, Nat.shiftRight_eq_div_pow]
  omega

theorem idNumber_eq (c : Code26) : (idNumber c).toNat = (payloadOf c).toNat % 2 ^ 16 := by
  simp only [idNumber, payloadOf, BitVec.extractLsb'_toNat, Nat.shiftRight_eq_div_pow]
  omega

/-! ## The digest back from its text -/

/-- IN, filled from a bank of results that holds a text of seven bytes, is the text of a present string (R33, R83). -/
theorem inputString_of_holdsText {f : InFlight} {r : ResultRegs} {x : List Byte} (hx : r.HoldsText x)
    (hlen : x.length = 7) (hinp : ∀ i : Fin 7, f.ops.inp[i.val] = ⟨r.out[i.val].val, true⟩) :
    InputReady true 7 f ∧ inputString 7 f.ops = x := by
  obtain ⟨-, -, hout⟩ := hx
  obtain ⟨hslen, hget⟩ := inputStringIsInZeroUpward f.ops 7 (by decide)
  refine ⟨fun _ i hi => congrArg Marked.mark (hinp ⟨i, hi⟩), List.ext_getElem? fun i => ?_⟩
  by_cases hi : i < 7
  · have hix : i < x.length := by omega
    have hbyte := congrArg Marked.val ((hout ⟨i, by omega⟩).1 hix)
    have hreg := congrArg Marked.val (hinp ⟨i, hi⟩)
    rw [List.getElem?_eq_getElem hix]
    exact (hget ⟨i, by omega⟩ hi).trans (congrArg some (hreg.trans hbyte))
  · rw [List.getElem?_eq_none (by omega), List.getElem?_eq_none (by omega)]

/-- A decoder operation on the text of a code leaves its field of that code in RES0 (R146, R181). -/
theorem exec_decoder_hex7 {i : Bool → Nat → Instr} {field : Code26 → Word} {s : State} {f : InFlight} {c : Code26}
    (hw : ∀ o, operandsWritten (i true 7) o = inputWritten 7 o)
    (hc : ∀ p o, completionOf (i true 7) p o = decodeField field (code26 p true (inputString 7 o)))
    (hf : s.inFlight = some f) (hready : InputReady true 7 f) (htext : inputString 7 f.ops = hex7 c)
    (hp : ∀ b ∈ s.params.ws, hexVal s.params b = none) :
    ∃ u, exec (i true 7) s = .next u ∧ u.code = some .ok ∧ u.results.OnlyRes0 (field c) := by
  refine ⟨_, exec_written hf ((hw f.ops).trans ((inputReady_iff ..).mp hready)), ?_⟩
  rw [hc, htext, code26_hex7 hp]
  exact ⟨rfl, ResultRegs.publish_onlyRes0 ..⟩

/-- The digest's bytes in the fields of its code: the payload's upper byte and its lower two (R140, R173). -/
theorem fields_of_encoded_digest {f : InFlight} {c : Code26} (hc : c = pargen (extract24 f.ops)) :
    (facilityCode c).toNat = f.ops.dig[17].val.toNat ∧
      (idNumber c).toNat = f.ops.dig[18].val.toNat * 2 ^ 8 + f.ops.dig[19].val.toNat ∧
      (payloadOf c).toNat = payloadNumber f := by
  have h18 := f.ops.dig[18].val.isLt
  have h19 := f.ops.dig[19].val.isLt
  have hp : (payloadOf c).toNat = payloadNumber f := by rw [hc, payloadOf_pargen, extract24_toNat]
  refine ⟨?_, ?_, hp⟩
  · rw [facilityCode_eq, hp, payloadNumber]
    omega
  · rw [idNumber_eq, hp, payloadNumber]
    omega

/-- Settles O52: the text is read as the code, whose payload is the digest's three bytes. -/
theorem decodingAnEncodedDigestRecoversIt : Obligations.DecodingAnEncodedDigestRecoversIt := by
  intro s f t s' f' hf hready he hf' hinp hp
  cases (exec_w26enc hf hready).symm.trans he
  obtain ⟨hready', htext⟩ := inputString_of_holdsText
    (ResultRegs.publish_holdsText (q := (encode26 f.ops).results) rfl (hex7_length_le _)) (hexText_length ..) hinp
  obtain ⟨hfc, hid, hpay⟩ := fields_of_encoded_digest (f := f) rfl
  obtain ⟨u1, e1, ok1, r1⟩ := exec_decoder_hex7 (i := .w26dfc) (fun _ => rfl) (fun _ _ => rfl) hf' hready' htext hp
  obtain ⟨u2, e2, ok2, r2⟩ := exec_decoder_hex7 (i := .w26did) (fun _ => rfl) (fun _ _ => rfl) hf' hready' htext hp
  obtain ⟨u3, e3, ok3, r3⟩ := exec_decoder_hex7 (i := .w26dpl) (fun _ => rfl) (fun _ _ => rfl) hf' hready' htext hp
  obtain ⟨u4, e4, ok4, r4⟩ := exec_decoder_hex7 (i := .w26dcc) (fun _ => rfl) (fun _ _ => rfl) hf' hready' htext hp
  rw [← hid, ← hfc, ← hpay]
  simp only [BitVec.ofNat_toNat]
  exact ⟨u1, u2, u3, u4, e1, ok1, r1, e2, ok2, r2, e3, ok3, r3, e4, ok4, r4⟩

end Sys2Proof.Machine
end

section
/-! PROOFS. The parse of hexadecimal text (R170), and the decoder's commands W26DFC, W26DID, W26DPL, W26DCC (R172 to
R178). -/

namespace Sys2Proof.Machine

/-! ## The digit value of a byte -/

/-- The byte ranges of R170 decide the digit value, a lowercase digit's under HEX_LOWER_OK. -/
theorem hexVal_of_ranges (p : Params) (b : Byte) :
    (0x30 ≤ b.toNat ∧ b.toNat ≤ 0x39 → hexVal p b = some (b.toNat - 0x30)) ∧
    (0x41 ≤ b.toNat ∧ b.toNat ≤ 0x46 → hexVal p b = some (b.toNat - 0x41 + 10)) ∧
    (0x61 ≤ b.toNat ∧ b.toNat ≤ 0x66 → p.hexLowerOk = true → hexVal p b = some (b.toNat - 0x61 + 10)) ∧
    (0x61 ≤ b.toNat ∧ b.toNat ≤ 0x66 → p.hexLowerOk = false → hexVal p b = none) ∧
    (¬(0x30 ≤ b.toNat ∧ b.toNat ≤ 0x39) ∧ ¬(0x41 ≤ b.toNat ∧ b.toNat ≤ 0x46) ∧ ¬(0x61 ≤ b.toNat ∧ b.toNat ≤ 0x66) →
      hexVal p b = none) := by
  unfold hexVal
  refine ⟨fun hdigit => ?_, fun hupper => ?_, fun hlower hok => ?_, fun hlower hok => ?_, fun hout => ?_⟩
  · rw [if_pos hdigit]
  · rw [if_neg (by omega), if_pos hupper]
  · rw [if_neg (by omega), if_neg (by omega), if_pos ⟨hlower.1, hlower.2, hok⟩]
  · rw [if_neg (by omega), if_neg (by omega), if_neg (by simp [hok])]
  · rw [if_neg hout.1, if_neg hout.2.1, if_neg fun h => hout.2.2 ⟨h.1, h.2.1⟩]

/-! ## The parse of a text -/

/-- A text that is read has a digit at every byte. -/
theorem exists_values_of_hexDigits {p : Params} {x : List Byte} {acc v : Nat} (h : hexDigits p acc x = some v) :
    ∃ ds : List Nat, x.map (hexVal p) = ds.map some := by
  induction x generalizing acc with
  | nil => exact ⟨[], rfl⟩
  | cons b x ih =>
    cases hb : hexVal p b with
    | none => simp [hexDigits, hb] at h
    | some d =>
      obtain ⟨ds, hds⟩ := ih (acc := acc * 16 + d) (by simpa [hexDigits, hb] using h)
      exact ⟨d :: ds, by rw [List.map_cons, List.map_cons, hb, hds]⟩

/-- The parse of a present text answers exactly on the numerals, and with their value (R170). -/
theorem hexParse_eq_some_iff {p : Params} {present : Bool} {x : List Byte} {v : Nat} :
    hexParse p present x = some v ↔ present = true ∧ HexNumeral p x v := by
  refine ⟨fun h => ?_, fun ⟨hpresent, hx⟩ => hpresent ▸ hexParse_of_hexNumeral hx⟩
  cases present with
  | false => simp [hexParse] at h
  | true =>
    cases hblank : x.all (isWs p) with
    | true => simp [hexParse, hblank] at h
    | false =>
      obtain ⟨b, hb, hws⟩ := List.all_eq_false.mp hblank
      have hread : hexDigits p 0 x = some v := by simpa [hexParse, hblank] using h
      obtain ⟨ds, hds⟩ := exists_values_of_hexDigits hread
      rw [hexDigits_of_values 0 hds, mul_zero, add_zero, Option.some_inj] at hread
      exact ⟨rfl, ⟨b, hb, fun e => hws ((isWs_iff p b).mpr e)⟩, ds, hds, hread⟩

theorem hexParse_eq_none {p : Params} {present : Bool} {x : List Byte}
    (h : ∀ v, ¬(present = true ∧ HexNumeral p x v)) : hexParse p present x = none :=
  Option.eq_none_iff_forall_ne_some.mpr fun v e => h v (hexParse_eq_some_iff.mp e)

theorem HexNumeral.hexVal_ne_none {p : Params} {x : List Byte} {v : Nat} (h : HexNumeral p x v) {b : Byte}
    (hb : b ∈ x) : hexVal p b ≠ none := by
  obtain ⟨-, ds, hds, -⟩ := h
  have hmem : hexVal p b ∈ ds.map some := hds ▸ List.mem_map_of_mem hb
  obtain ⟨d, -, hd⟩ := List.mem_map.mp hmem
  simp [← hd]

/-- The number of `k` digits, the first most significant, is the sum of the digits by their weights. -/
theorem ofDigits_reverse_map_range (d : Nat → Nat) (k : Nat) :
    Nat.ofDigits 16 ((List.range k).map d).reverse = ∑ i ∈ Finset.range k, d i * 16 ^ (k - 1 - i) := by
  induction k generalizing d with
  | zero => rfl
  | succ k ih =>
    have weight : ∀ i, k - 1 - i = k - (i + 1) := by omega
    rw [List.range_succ_eq_map, List.map_cons, List.map_map, Nat.ofDigits_reverse_cons, ih, Finset.sum_range_succ']
    simp [weight, mul_comm]

theorem hexNumeral_of_values {p : Params} {x : List Byte} {d : Nat → Nat} (hws : ∃ b ∈ x, b ∉ p.ws)
    (hd : ∀ i b, x[i]? = some b → hexVal p b = some (d i)) :
    HexNumeral p x (∑ i ∈ Finset.range x.length, d i * 16 ^ (x.length - 1 - i)) := by
  refine ⟨hws, (List.range x.length).map d, List.ext_getElem (by simp) fun i hi _ => ?_, ofDigits_reverse_map_range ..⟩
  have hix : i < x.length := by simpa using hi
  simpa using hd i x[i] (List.getElem?_eq_getElem hix)

/-- Settles O57: null, blank and malformed text are no numerals, and a text of digits is the numeral of its sum. -/
theorem hexparseReadsTheText : Obligations.HexparseReadsTheText := by
  refine ⟨hexVal_of_ranges, fun p x => ⟨rfl, fun hblank => ?_, fun ⟨b, hb, hnone⟩ => ?_, fun d hws hd => ?_⟩⟩
  · exact hexParse_eq_none fun v ⟨_, ⟨b, hb, hws⟩, _⟩ => hws (hblank b hb)
  · exact hexParse_eq_none fun v ⟨_, hv⟩ => hv.hexVal_ne_none hb hnone
  · exact hexParse_of_hexNumeral (hexNumeral_of_values hws hd)

/-! ## The code of a text and its fields -/

/-- A present text has a code exactly when it is the code's numeral (R172). -/
theorem code26_eq_some_iff {p : Params} {present : Bool} {x : List Byte} {c : Code26} :
    code26 p present x = some c ↔ present = true ∧ HexNumeral p x c.toNat := by
  rw [← hexParse_eq_some_iff, code26]
  cases hexParse p present x with
  | none => simp
  | some v =>
    have hc := c.isLt
    by_cases hv : 2 ^ 26 ≤ v
    · simp only [if_pos hv, Option.some_inj, reduceCtorEq, false_iff]
      omega
    · simp only [if_neg hv, Option.some_inj, ← BitVec.toNat_inj, BitVec.toNat_ofNat]
      rw [Nat.mod_eq_of_lt (by omega)]

theorem facilityCode_toNat (c : Code26) : (facilityCode c).toNat = c.toNat / 2 ^ 17 % 2 ^ 8 := by
  rw [facilityCode, BitVec.extractLsb'_toNat, Nat.shiftRight_eq_div_pow]

theorem idNumber_toNat (c : Code26) : (idNumber c).toNat = c.toNat / 2 % 2 ^ 16 := by
  rw [idNumber, BitVec.extractLsb'_toNat, Nat.shiftRight_eq_div_pow, pow_one]

theorem payloadOf_toNat (c : Code26) : (payloadOf c).toNat = c.toNat / 2 % 2 ^ 24 := by
  rw [payloadOf, BitVec.extractLsb'_toNat, Nat.shiftRight_eq_div_pow, pow_one]

/-! ## W26DFC, W26DID, W26DPL and W26DCC -/

/-- A command that reads the input string and publishes a field of its code follows the rule of R175 to R178. -/
theorem decoderRule_of_completionOf {i : Bool → Nat → Instr} {word : Code26 → Word} {field : Nat → Nat}
    (hw : ∀ present len o, operandsWritten (i present len) o = (!present || inputWritten len o))
    (hc : ∀ present len p o,
      completionOf (i present len) p o = decodeField word (code26 p present (inputString len o)))
    (hfield : ∀ c, word c = BitVec.ofNat 32 (field c.toNat)) : DecoderRule i field := by
  intro s f present len hf hready
  refine ⟨_, exec_written hf ((hw ..).trans ((inputReady_iff ..).mp hready)), ?_⟩
  rw [hc]
  cases hcode : code26 s.params present (inputString len f.ops) with
  | some c =>
    obtain ⟨hpresent, hx⟩ := code26_eq_some_iff.mp hcode
    exact .inl ⟨hpresent, c.toNat, hx, c.isLt, rfl, hfield c ▸ ResultRegs.publish_onlyRes0 .., complete_frame ..⟩
  | none =>
    refine .inr ⟨?_, endsWithout_complete_raise ..⟩
    cases present with
    | false => exact .inl rfl
    | true =>
      refine .inr fun ⟨v, hx, hv⟩ => ?_
      have hv' : (BitVec.ofNat 26 v).toNat = v := Nat.mod_eq_of_lt hv
      cases hcode.symm.trans (code26_eq_some_iff.mpr ⟨rfl, hv'.symm ▸ hx⟩)

/-- Settles O40: the word published is bits 24:17 of the numeral's value. -/
theorem w26dfcDecodesTheFacilityCode : Obligations.W26dfcDecodesTheFacilityCode :=
  ⟨fun _ _ => commandWord_and_maskS .., decoderRule_of_completionOf (fun _ _ _ => rfl) (fun _ _ _ _ => rfl)
    fun c => by rw [← facilityCode_toNat, BitVec.ofNat_toNat]⟩

/-- Settles O41: the word published is bits 16:1 of the numeral's value. -/
theorem w26didDecodesTheIdNumber : Obligations.W26didDecodesTheIdNumber :=
  ⟨fun _ _ => commandWord_and_maskS .., decoderRule_of_completionOf (fun _ _ _ => rfl) (fun _ _ _ _ => rfl)
    fun c => by rw [← idNumber_toNat, BitVec.ofNat_toNat]⟩

/-- Settles O42: the word published is bits 24:1 of the numeral's value. -/
theorem w26dplDecodesThePayload : Obligations.W26dplDecodesThePayload :=
  ⟨fun _ _ => commandWord_and_maskS .., decoderRule_of_completionOf (fun _ _ _ => rfl) (fun _ _ _ _ => rfl)
    fun c => by rw [← payloadOf_toNat, BitVec.ofNat_toNat]⟩

/-- Settles O43: the word published is the concatenation of the two fields of the numeral's value. -/
theorem w26dccDecodesTheConcatenation : Obligations.W26dccDecodesTheConcatenation :=
  ⟨fun _ _ => commandWord_and_maskS .., decoderRule_of_completionOf (fun _ _ _ => rfl) (fun _ _ _ _ => rfl)
    fun c => by rw [← facilityCode_toNat, ← idNumber_toNat, concatenation]⟩

/-! ## The concatenation as a decimal numeral -/

/-- Digits of `n` filled up with zeros to `k` places, below the digits of `m`, are the numeral of `n + b ^ k * m`. -/
theorem ofDigits_digits_padded {b k n : Nat} (hb : 1 < b) (hn : n < b ^ k) (m : Nat) :
    Nat.ofDigits b (Nat.digits b n ++ List.replicate (k - (Nat.digits b n).length) 0 ++ Nat.digits b m) =
      n + b ^ k * m := by
  have hlen : (Nat.digits b n).length ≤ k := (Nat.digits_length_le_iff hb n).mpr hn
  rw [Nat.ofDigits_append, Nat.ofDigits_append_replicate_zero, Nat.ofDigits_digits, Nat.ofDigits_digits,
    List.length_append, List.length_replicate, Nat.add_sub_cancel' hlen]

/-- Settles O51: the ID number has at most five digits, so the facility code stands at the weight 100000. -/
theorem concatenationIsTheDecimalReading : Obligations.ConcatenationIsTheDecimalReading := by
  intro c
  have hfc := (facilityCode c).isLt
  have hid := (idNumber c).isLt
  rw [ofDigits_digits_padded (by decide) (by omega), concatenation]
  exact ⟨by omega, rfl, by omega, by omega, fun h => by rw [h, zero_mul, zero_add]⟩

end Sys2Proof.Machine
end

section
/-! PROOFS. The Wiegand64 code as a number, and the commands that give it: CH6 and W64ENC (R200 to R209). -/

namespace Sys2Proof.Machine

/-! ## The code table -/

/-- Every code of R200's table is some symbol's: 0 the space's, 16..25 the digits', 26..51 the letters'. -/
theorem exists_code6_eq {n : Nat} (h : n = 0 ∨ (16 ≤ n ∧ n ≤ 51)) : ∃ b : Byte, code6 b = BitVec.ofNat 6 n := by
  obtain rfl | ⟨hlow, hhigh⟩ := h
  · exact ⟨0x20, rfl⟩
  · have hn : (BitVec.ofNat 6 n).toNat = n := Nat.mod_eq_of_lt (by omega)
    obtain hdigit | hupper := Nat.lt_or_ge n 26
    · have hb : (BitVec.ofNat 8 (0x30 + (n - 16))).toNat = 0x30 + (n - 16) := Nat.mod_eq_of_lt (by omega)
      refine ⟨BitVec.ofNat 8 (0x30 + (n - 16)), BitVec.eq_of_toNat_eq ?_⟩
      rw [code6_toNat, hb, hn, if_neg (by omega), if_pos (by omega)]
      omega
    · have hb : (BitVec.ofNat 8 (0x41 + (n - 26))).toNat = 0x41 + (n - 26) := Nat.mod_eq_of_lt (by omega)
      refine ⟨BitVec.ofNat 8 (0x41 + (n - 26)), BitVec.eq_of_toNat_eq ?_⟩
      rw [code6_toNat, hb, hn, if_neg (by omega), if_neg (by omega), if_pos (by omega)]
      omega

theorem code6_range (b : Byte) :
    (code6 b).toNat = 0 ∨ (16 ≤ (code6 b).toNat ∧ (code6 b).toNat ≤ 51) ∨ (code6 b).toNat = 63 := by
  rw [code6_toNat]
  split_ifs <;> omega

/-- Settles O53: the codes are those of the symbols, each of one symbol, and 63 of every other byte. -/
theorem codeTableIsABijectionOnTheSymbols : Obligations.CodeTableIsABijectionOnTheSymbols := by
  refine ⟨code6_range, fun b => ?_, fun _ _ => code6_injective_of_ne_escape, fun _ => exists_code6_eq,
    0x61, 0x00, by decide⟩
  rw [← code6_ne_escape_iff, ne_eq, not_not]

/-- Settles O34: the command writes the code of the byte to RES0. -/
theorem ch6LooksUpTheByte : Obligations.Ch6LooksUpTheByte := by
  refine ⟨by decide, fun s f hf hmark => ?_⟩
  refine ⟨_, _, exec_written hf hmark, rfl, rfl, complete_frame .., ?_⟩
  rw [← code6_toNat, BitVec.ofNat_toNat]
  exact ResultRegs.publish_onlyRes0 ..

/-! ## The code as a number -/

/-- The lanes lie below the header (R203, R204). -/
theorem lanes_lt (t : List Byte) : (lanes t).toNat < 2 ^ 60 := by
  rw [lanes_toNat]
  exact base64_lt (laneCode_lt t) 10

/-- The header 0110 stands over the lanes without touching them (R204). -/
theorem w64_toNat (t : List Byte) : (w64 t).toNat = 6 * 2 ^ 60 + (lanes t).toNat := by
  rw [w64, BitVec.toNat_or, mul_comm, Nat.two_pow_add_eq_or_of_lt (lanes_lt t)]
  rfl

/-- The code is the number of R202 to R204. -/
theorem w64_toNat_eq_w64Number (t : List Byte) : (w64 t).toNat = w64Number t := by
  have weight : ∀ i ∈ Finset.range 10, laneCode t i * 64 ^ (10 - 1 - i) = laneCode t i * 2 ^ (54 - 6 * i) := by
    intro i hi
    have he : 54 - 6 * i = 6 * (10 - 1 - i) := by omega
    rw [he, pow_mul]
    rfl
  rw [w64_toNat, lanes_toNat, base64, Finset.sum_congr rfl weight]
  rfl

/-- The most significant hexadecimal digit of every code is 6 (R204, R207). -/
theorem w64_top_digit (t : List Byte) : (w64 t).toNat / 2 ^ 60 = 6 := by
  have := lanes_lt t
  rw [w64_toNat]
  omega

theorem w64_header (t : List Byte) : (w64 t).extractLsb' 60 4 = 0b0110 := by
  apply BitVec.eq_of_toNat_eq
  rw [BitVec.extractLsb'_toNat, Nat.shiftRight_eq_div_pow, w64_top_digit]
  rfl

/-- Settles O54: the header by the value of the code, each lane by `w64_lane`. -/
theorem wiegand64LanesAreTheCharacterCodes : Obligations.Wiegand64LanesAreTheCharacterCodes := by
  intro t _ hle
  refine ⟨w64_header t, pad10_length hle, fun i hi b hb => ?_⟩
  rw [w64_lane t (Nat.lt_succ_of_le hi), List.getD_eq_getElem?_getD, hb, Option.getD_some]

/-! ## The text of the code -/

theorem hexValues_length (k v : Nat) : (hexValues k v).length = k := by simp [hexValues]

/-- A number of exactly `k + 1` hexadecimal digits has its rendering of that width for its natural one (R12). -/
theorem digits_eq_reverse_hexValues {k v : Nat} (hlow : 16 ^ k ≤ v) (hhigh : v < 16 ^ (k + 1)) :
    Nat.digits 16 v = (hexValues (k + 1) v).reverse := by
  have htop : v / 16 ^ k % 16 ≠ 0 := by
    have hq : v / 16 ^ k < 16 := Nat.div_lt_of_lt_mul hhigh
    rw [Nat.mod_eq_of_lt hq]
    exact (Nat.div_pos hlow (by positivity)).ne'
  have hlast (h : (hexValues (k + 1) v).reverse ≠ []) : (hexValues (k + 1) v).reverse.getLast h ≠ 0 := by
    rw [List.getLast_reverse]
    simpa [hexValues] using htop
  rw [← Nat.digits_ofDigits 16 (by decide) _ (fun d hd => hexValues_lt (List.mem_reverse.mp hd)) hlast,
    ofDigits_hexValues hhigh]

/-- Settles O55: the code's top digit is 6, so its natural rendering has the sixteen digits of `hex16`. -/
theorem wiegand64HasSixteenNaturalDigits : Obligations.Wiegand64HasSixteenNaturalDigits := by
  intro t _ _
  have hlanes := lanes_lt t
  have hvalue := w64_toNat t
  have hdigits : Nat.digits 16 (w64 t).toNat = (hexValues 16 (w64 t).toNat).reverse :=
    digits_eq_reverse_hexValues (by omega) (by omega)
  have hhead : (hex16 (w64 t)).head? = some (hexDigit ((w64 t).toNat / 2 ^ 60 % 16)) := by
    rw [List.head?_eq_getElem?]
    exact hexText_getElem? (by decide)
  rw [hdigits, List.reverse_reverse, List.length_reverse, hexValues_length, hhead, w64_top_digit]
  exact ⟨by omega, by omega, rfl, hexText_eq_map_hexValues .., rfl⟩

/-! ## W64ENC -/

/-- What W64ENC publishes for a plate: the number of the code in both words, and its text (R209). -/
theorem encode64_eq (t : List Byte) :
    encode64 t = finish
      { res0 := some (BitVec.ofNat 32 (w64Number t)), res1 := some (BitVec.ofNat 32 (w64Number t / 2 ^ 32)),
        out := some (hexText 16 (w64Number t)) } := by
  rw [← w64_toNat_eq_w64Number, ← Nat.shiftRight_eq_div_pow]
  rfl

/-- Settles O44: the ordered chain of the sanitizer outcome, with the code of the plate at its end. -/
theorem w64encEncodesThePlate : Obligations.W64encEncodesThePlate := by
  refine ⟨fun _ _ => commandWord_and_maskS .., fun s f present len hf hready => ?_⟩
  refine ⟨_, _, _, exec_written hf ((inputReady_iff ..).mp hready), rfl, rfl, ?_⟩
  rw [completionOf, sanitizeOutcome_eq]
  split_ifs with habsent hlong
  · exact endsWithout_complete_raise ..
  · exact endsWithout_complete_raise ..
  · rw [ofSanitized, encode64_eq]
    exact ⟨rfl, complete_frame .., rfl, rfl, ResultRegs.publish_holdsText rfl (hexText_length ..).le⟩

end Sys2Proof.Machine
end

section
/-! PROOFS. The outcomes of the commands (R231, R232, R234), and a CMD write while busy (R240, R264). -/

namespace Sys2Proof.Machine

/-! ## Outcomes -/

/-- Settles O29: an outcome other than OK comes with no results to publish. -/
theorem errorOutcomeLeavesNoResult : Obligations.ErrorOutcomeLeavesNoResult := by
  intro i s f t c hf hw he hcode hne
  cases (exec_written hf hw).symm.trans he
  obtain rfl : (completionOf i s.params f.ops).outcome = c := Option.some.inj hcode
  exact ⟨rfl, ResultRegs.publish_noneValid (completionOf_fails hne), complete_frame ..⟩

theorem ofSanitized_outcome_mem {k : List Byte → Completion} (hk : ∀ x, (k x).outcome = .ok) (r : Sanitized) :
    (ofSanitized k r).outcome ∈ [.ok, .absent, .invalidInput] := by
  cases r with
  | absent => simp [ofSanitized, raise]
  | invalidInput => simp [ofSanitized, raise]
  | ok x => simp [ofSanitized, hk]

theorem decodeField_outcome_mem (field : Code26 → Word) (c : Option Code26) :
    (decodeField field c).outcome ∈ [.ok, .invalidInput] := by
  cases c with
  | none => simp [decodeField, raise]
  | some c => simp [decodeField, finishRes0, finish]

/-- Each operation's completion has one of the outcomes of R231's table. -/
theorem completionOf_outcome_mem (i : Instr) (p : Params) (o : Operands) :
    (completionOf i p o).outcome ∈ allowedOutcomes i := by
  cases i with
  | chcls | ch6 | pargen | parchk => exact List.mem_singleton_self _
  | san26 | san64 | w64enc => exact ofSanitized_outcome_mem (fun _ => rfl) _
  | w26dfc | w26did | w26dpl | w26dcc => exact decodeField_outcome_mem ..
  | w26enc hashOk =>
    cases hashOk with
    | true => exact List.mem_cons_self
    | false => exact List.mem_cons_of_mem _ (List.mem_singleton_self _)

/-- Settles O30: the command ends with the outcome of its completion. -/
theorem outcomesOfEachOperation : Obligations.OutcomesOfEachOperation := by
  intro i s f hf hw
  exact ⟨_, _, exec_written hf hw, rfl, completionOf_outcome_mem ..⟩

/-! ## A CMD write while busy -/

/-- Settles O18: whichever answer is drawn, it stands over the state with the fault recorded. -/
theorem cmdWriteWhileBusyIsAProtocolFault : Obligations.CmdWriteWhileBusyIsAProtocolFault := by
  intro s u f w rest hf hu hm
  obtain ⟨-, hoperands, -, hfaults, -, hbusy, hobserved, hparams, hlatencies, -⟩ := hu.fields
  have busy : u.busy = true := hbusy.trans (by simp [State.busy, hf])
  have write : State.writeCmd { u with host := rest } w = State.writeWhileBusy { u with host := rest } := if_pos busy
  refine ⟨_, step_write hu hm, ?_⟩
  rw [writeReg_cmd, write, ← hfaults, ← hoperands, ← hobserved, ← hlatencies, ← hparams]
  rcases writeWhileBusy_cases { u with host := rest } with ⟨g, queue, e⟩ | ⟨code, q, e⟩
  · rw [e]; exact ⟨rfl, rfl, rfl, rfl, rfl, rfl⟩
  · rw [e]; exact ⟨rfl, rfl, rfl, rfl, rfl, rfl⟩

end Sys2Proof.Machine
end

section
/-! PROOFS. A command in flight completes (R230, R267): the host's moves other than reset and CMD writes leave it in
flight, so each of its turns of waiting is used up, and then the block completes it. -/

namespace Sys2Proof.Machine

/-! ## Moves that leave the command in flight alone -/

/-- From `s` to `t` the command in flight stays, and every move put before the host's leaves it alone too. -/
structure State.KeepsFlight (s t : State) : Prop where
  inFlight : t.inFlight = s.inFlight
  host     : ∃ more, t.host = more ++ s.host ∧ ∀ m ∈ more, leavesFlight m = true

/-- Nothing in flight changes and no move is added. -/
theorem State.KeepsFlight.of_same {s t : State} (hf : t.inFlight = s.inFlight) (hh : t.host = s.host) :
    s.KeepsFlight t :=
  ⟨hf, [], hh, by simp⟩

/-- A host whose moves all leave the command in flight alone stays such a host. -/
theorem State.KeepsFlight.leavesFlight {s t : State} (h : s.KeepsFlight t)
    (hs : ∀ m ∈ s.host, leavesFlight m = true) : ∀ m ∈ t.host, leavesFlight m = true := by
  obtain ⟨-, more, hhost, hmore⟩ := h
  rw [hhost]
  exact List.forall_mem_append.mpr ⟨hmore, hs⟩

theorem readReg_inFlight (s : State) (r : RegNum) : (s.readReg r).2.inFlight = s.inFlight := by
  rcases readReg_cases s r with e | ⟨k, e⟩
  · rw [e]
  · rw [e]; rfl

theorem readReg_host (s : State) (r : RegNum) : (s.readReg r).2.host = s.host := by
  rcases readReg_cases s r with e | ⟨k, e⟩
  · rw [e]
  · rw [e]; rfl

/-- A write of any register but CMD starts and ends no command (R65, R265). -/
theorem writeReg_keepsFlight (s : State) {r : RegNum} (v : Word) (hr : r ≠ 0x000) :
    s.KeepsFlight (s.writeReg r v) := by
  unfold State.writeReg
  cases h : regOfNumber r with
  | none => exact .of_same rfl rfl
  | some g =>
    cases g
    case cmd => exact absurd (regNumber_of_regOfNumber h).symm hr
    all_goals exact .of_same rfl rfl

theorem leavesFlight_of_mem_outReads {v : Word} {m : HostMove} (hm : m ∈ outReads v) : leavesFlight m = true := by
  obtain ⟨i, -, rfl⟩ := List.mem_map.mp hm
  rfl

theorem performMove_keepsFlight (s : State) {m : HostMove} (hm : leavesFlight m = true) :
    s.KeepsFlight (performMove s m) := by
  cases m with
  | wr r v => exact writeReg_keepsFlight s v (by simpa [leavesFlight] using hm)
  | rd r => exact .of_same (readReg_inFlight s r) (readReg_host s r)
  | poll =>
    rw [performMove, pollStatus]
    split_ifs
    · exact ⟨readReg_inFlight s _, [.poll], rfl, by simp [leavesFlight]⟩
    · exact .of_same (readReg_inFlight s _) (readReg_host s _)
  | rdOut => exact ⟨readReg_inFlight s _, _, rfl, fun _ => leavesFlight_of_mem_outReads⟩
  | reset => cases hm

theorem hostTurn_inFlight_and_leavesFlight {s : State} (hs : ∀ m ∈ s.host, leavesFlight m = true) :
    (hostTurn s).inFlight = s.inFlight ∧ ∀ m ∈ (hostTurn s).host, leavesFlight m = true := by
  unfold hostTurn
  cases hh : s.host with
  | nil => exact ⟨rfl, by simp [hh]⟩
  | cons m rest =>
    obtain ⟨hm, hrest⟩ := List.forall_mem_cons.mp (hh ▸ hs)
    have keeps := performMove_keepsFlight { s with host := rest } hm
    exact ⟨keeps.inFlight, keeps.leavesFlight hrest⟩

/-! ## Waiting and completing -/

/-- A command whose turns of waiting are over is completed by the next step, whatever its word and its operands. -/
theorem step_completes_command {s : State} {f : InFlight} (hf : s.inFlight = some f) (hw : f.wait = 0) :
    ∃ t, step s = .next t ∧ t.busy = false ∧ t.code ≠ none := by
  rw [step_completes hf hw, runWord]
  cases decode f.word with
  | error e => exact ⟨_, rfl, rfl, Option.some_ne_none _⟩
  | ok i =>
    cases hops : operandsWritten i f.ops with
    | true => exact ⟨_, exec_written hf hops, rfl, Option.some_ne_none _⟩
    | false => exact ⟨_, exec_unwritten hf hops, rfl, Option.some_ne_none _⟩

/-- Settles O25, by induction on the turns of waiting: each step but the last uses one up. -/
theorem commandInFlightCompletes : Obligations.CommandInFlightCompletes := by
  intro s f hf hs
  induction hw : f.wait generalizing s f with
  | zero =>
    obtain ⟨t, hstep, hdone⟩ := step_completes_command hf hw
    exact ⟨t, run_step 0 hstep, hdone⟩
  | succ n ih =>
    obtain ⟨hflight, hmoves⟩ :=
      hostTurn_inFlight_and_leavesFlight (s := { s with inFlight := some { f with wait := n } }) hs
    rw [run_step (n + 1) (step_waits hf hw)]
    exact ih _ _ hflight hmoves rfl

end Sys2Proof.Machine
end

section
/-! PROOFS. Reset (R260, R261): the state of R260's table, and a reset by the host in whatever turn it comes. -/

namespace Sys2Proof.Machine

/-- BUSY 0 and CODE NONE make STATUS 0 (R25, R260). -/
theorem statusWord_eq_zero {s : State} (hb : s.busy = false) (hc : s.code = none) : s.statusWord = 0 := by
  rw [State.statusWord, hb, hc]; rfl

/-- Settles O1: the unwritten operand registers and the invalid result registers carry no mark. -/
theorem resetLeavesTheStateOfTheTable : Obligations.ResetLeavesTheStateOfTheTable :=
  ⟨rfl, rfl, statusWord_eq_zero rfl rfl, rfl, rfl, rfl, rfl, unwritten_dig_mark, unwritten_inp_mark,
    ResultRegs.invalid_noneValid, rfl⟩

/-- Settles O24: the step is the reset, which leaves of the host's turn only the moves to come and the parameters. -/
theorem hostResetDiscardsEverything : Obligations.HostResetDiscardsEverything := by
  intro s u rest hu hm
  obtain ⟨-, -, -, -, -, -, -, hparams, -⟩ := hu.fields
  exact ⟨State.hostReset { u with host := rest }, step_move hu hm, rfl, statusWord_eq_zero rfl rfl, rfl,
    ResultRegs.invalid_noneValid, rfl, rfl, rfl, unwritten_dig_mark, unwritten_inp_mark, rfl, rfl, rfl, hparams⟩

end Sys2Proof.Machine
end
